-- ==== Sys2Proof/Word.lean ====
section
/-! DEFINITION. The word types of NES_Clone CORE: 8-bit data, 16-bit addresses (R5, R20). -/

namespace Sys2Proof

/-- A byte: registers `A X Y S P`, memory cells, opcodes, operand bytes (R5, R7). -/
abbrev Byte := BitVec 8

/-- A 16-bit address on the primary bus, and the width of `PC` (R5, R47). -/
abbrev Addr := BitVec 16

end Sys2Proof
end

