-- ==== Sys2Proof/Forms.lean ====
section
/-! DEFINITION. The addressing modes and the operands as syntax (R93, R101, R132). -/

namespace Sys2Proof

/-- The operand forms that carry an operand location (R93, R101), with the operand as read:
a byte for the one-byte forms, the little-endian word for the two-byte forms. -/
inductive Operand where
  /-- Accumulator, `A` (R116) -/
  | acc
  /-- Immediate, `#$nn` (R117) -/
  | imm (n : Byte)
  /-- Zero-Page, `$nn` (R118) -/
  | zp (z : Byte)
  /-- Zero-Page+X, `$nn,X` (R119) -/
  | zpx (z : Byte)
  /-- Zero-Page+Y, `$nn,Y` (R120) -/
  | zpy (z : Byte)
  /-- Absolute, `$nnnn` (R121) -/
  | abs (w : Addr)
  /-- Absolute+X, `$nnnn,X` (R122) -/
  | abx (w : Addr)
  /-- Absolute+Y, `$nnnn,Y` (R123) -/
  | aby (w : Addr)
  /-- Indirect, `($nnnn)`, used only by `JMP` (R124) -/
  | ind (w : Addr)
  /-- Indexed-Indirect, `($nn,X)` (R125) -/
  | izx (z : Byte)
  /-- Indirect-Indexed, `($nn),Y` (R126) -/
  | izy (z : Byte)
deriving DecidableEq, Repr

/-- The names of the eleven operand forms (R101). -/
inductive Form where
  | acc | imm | zp | zpx | zpy | abs | abx | aby | ind | izx | izy
deriving DecidableEq, Repr

/-- The fourteen addressing modes (R132): eleven operand forms, Relative, Implied and Stack. -/
inductive Mode where
  | opd (f : Form)
  | rel
  | imp
  | stk
deriving DecidableEq, Repr

/-- The form of an operand. -/
def Operand.form : Operand → Form
  | .acc => .acc
  | .imm _ => .imm
  | .zp _ => .zp
  | .zpx _ => .zpx
  | .zpy _ => .zpy
  | .abs _ => .abs
  | .abx _ => .abx
  | .aby _ => .aby
  | .ind _ => .ind
  | .izx _ => .izx
  | .izy _ => .izy

end Sys2Proof
end

