-- ==== Sys2Proof/Syntax.lean ====
section
/-! DEFINITION. The instruction set as syntax: 56 documented instructions with their operand forms, and the unassigned opcode bytes (R90, R95 to R97, R101). -/

namespace Sys2Proof

/-- An instruction. A row of the opcode table is one of these constructors at one operand form
(or one unassigned opcode byte). -/
inductive Instr where
  -- load, store, transfer (R140 to R151)
  | lda (o : Operand)
  | ldx (o : Operand)
  | ldy (o : Operand)
  | sta (o : Operand)
  | stx (o : Operand)
  | sty (o : Operand)
  | tax
  | tay
  | txa
  | tya
  | tsx
  | txs
  -- arithmetic, compare, increment, decrement (R160 to R170)
  | adc (o : Operand)
  | sbc (o : Operand)
  | cmp (o : Operand)
  | cpx (o : Operand)
  | cpy (o : Operand)
  | inc (o : Operand)
  | dec (o : Operand)
  | inx
  | iny
  | dex
  | dey
  -- logic, bit test, shifts and rotates (R180 to R187)
  | and (o : Operand)
  | ora (o : Operand)
  | eor (o : Operand)
  | bit (o : Operand)
  | asl (o : Operand)
  | lsr (o : Operand)
  | rol (o : Operand)
  | ror (o : Operand)
  -- branches with their offset byte (R201 to R208), jumps, subroutines (R209 to R212)
  | bcc (off : Byte)
  | bcs (off : Byte)
  | beq (off : Byte)
  | bmi (off : Byte)
  | bne (off : Byte)
  | bpl (off : Byte)
  | bvc (off : Byte)
  | bvs (off : Byte)
  | jmp (o : Operand)
  | jsr (o : Operand)
  | rts
  -- stack, flags, no-operation, system (R220 to R237)
  | pha
  | php
  | pla
  | plp
  | clc
  | sec
  | cli
  | sei
  | cld
  | sed
  | clv
  | nop
  | brk
  | rti
  /-- One of the 105 opcode bytes with no documented instruction (R96, R240). -/
  | unassigned (op : Byte)
deriving DecidableEq, Repr

end Sys2Proof
end

