-- ==== Sys2Proof/WellFormed.lean ====
section
/-! DEFINITION. Which terms of `Instr` are instructions of the machine: each instruction only in the operand forms its rule lists, and `unassigned` only at the bytes R96 lists. -/

namespace Sys2Proof

/-- The forms of LDA, ADC, SBC, AND, ORA, EOR, CMP ("Operands" of R140, R160 to R162, R180 to R182). -/
def readForms : List Form := [.imm, .zp, .zpx, .abs, .abx, .aby, .izx, .izy]

/-- The forms of STA (R143). -/
def storeForms : List Form := [.zp, .zpx, .abs, .abx, .aby, .izx, .izy]

/-- The forms of INC and DEC (R165, R166). -/
def rmwForms : List Form := [.zp, .zpx, .abs, .abx]

/-- The 105 opcode bytes with no documented instruction, row by row as R96 lists them. -/
def unassignedBytes : List Byte :=
  [0x02, 0x03, 0x04, 0x07, 0x0B, 0x0C, 0x0F] ++
  [0x12, 0x13, 0x14, 0x17, 0x1A, 0x1B, 0x1C, 0x1F] ++
  [0x22, 0x23, 0x27, 0x2B, 0x2F] ++
  [0x32, 0x33, 0x34, 0x37, 0x3A, 0x3B, 0x3C, 0x3F] ++
  [0x42, 0x43, 0x44, 0x47, 0x4B, 0x4F] ++
  [0x52, 0x53, 0x54, 0x57, 0x5A, 0x5B, 0x5C, 0x5F] ++
  [0x62, 0x63, 0x64, 0x67, 0x6B, 0x6F] ++
  [0x72, 0x73, 0x74, 0x77, 0x7A, 0x7B, 0x7C, 0x7F] ++
  [0x80, 0x82, 0x83, 0x87, 0x89, 0x8B, 0x8F] ++
  [0x92, 0x93, 0x97, 0x9B, 0x9C, 0x9E, 0x9F] ++
  [0xA3, 0xA7, 0xAB, 0xAF] ++
  [0xB2, 0xB3, 0xB7, 0xBB, 0xBF] ++
  [0xC2, 0xC3, 0xC7, 0xCB, 0xCF] ++
  [0xD2, 0xD3, 0xD4, 0xD7, 0xDA, 0xDB, 0xDC, 0xDF] ++
  [0xE2, 0xE3, 0xE7, 0xEB, 0xEF] ++
  [0xF2, 0xF3, 0xF4, 0xF7, 0xFA, 0xFB, 0xFC, 0xFF]

/-- The instruction is one the opcode matrix holds. -/
def Instr.wellFormed : Instr → Bool
  | .lda o | .adc o | .sbc o | .cmp o | .and o | .ora o | .eor o => readForms.contains o.form
  | .ldx o => [Form.imm, .zp, .zpy, .abs, .aby].contains o.form
  | .ldy o => [Form.imm, .zp, .zpx, .abs, .abx].contains o.form
  | .sta o => storeForms.contains o.form
  | .stx o => [Form.zp, .zpy, .abs].contains o.form
  | .sty o => [Form.zp, .zpx, .abs].contains o.form
  | .cpx o | .cpy o => [Form.imm, .zp, .abs].contains o.form
  | .inc o | .dec o => rmwForms.contains o.form
  | .bit o => [Form.zp, .abs].contains o.form
  | .asl o | .lsr o | .rol o | .ror o => (Form.acc :: rmwForms).contains o.form
  | .jmp o => [Form.abs, .ind].contains o.form
  | .jsr o => [Form.abs].contains o.form
  | .tax | .tay | .txa | .tya | .tsx | .txs => true
  | .inx | .iny | .dex | .dey => true
  | .bcc _ | .bcs _ | .beq _ | .bmi _ | .bne _ | .bpl _ | .bvc _ | .bvs _ => true
  | .rts | .pha | .php | .pla | .plp => true
  | .clc | .sec | .cli | .sei | .cld | .sed | .clv => true
  | .nop | .brk | .rti => true
  | .unassigned op => unassignedBytes.contains op

end Sys2Proof
end

