-- ==== Sys2Proof/Decode.lean ====
section
/-! DEFINITION. The opcode matrix (R91, R94 to R96), the decoder, total on any bytes (R100), and the encoder, written from the table by mnemonic (R97). -/

namespace Sys2Proof

/-- `hi:lo`, two bytes as a 16-bit value (R8). -/
def join (hi lo : Byte) : Addr := hi ++ lo

/-- `w[7:0]` (R7). -/
def loByte (w : Addr) : Byte := w.setWidth 8

/-- `w[15:8]` (R7). -/
def hiByte (w : Addr) : Byte := (w >>> 8).setWidth 8

/-- Operand bytes of an operand form (R92). -/
def Form.operandBytes : Form → Nat
  | .acc => 0
  | .imm | .zp | .zpx | .zpy | .izx | .izy => 1
  | .abs | .abx | .aby | .ind => 2

/-- Operand bytes of a mode (R92): the length of an instruction follows from its mode alone. -/
def Mode.operandBytes : Mode → Nat
  | .opd f => f.operandBytes
  | .rel => 1
  | .imp | .stk => 0

/-- The operand that the bytes `b1`, `b2` after the opcode form; two bytes are low byte first (R93). -/
def Form.operand (f : Form) (b1 b2 : Byte) : Operand :=
  match f with
  | .acc => .acc
  | .imm => .imm b1
  | .zp => .zp b1
  | .zpx => .zpx b1
  | .zpy => .zpy b1
  | .abs => .abs (join b2 b1)
  | .abx => .abx (join b2 b1)
  | .aby => .aby (join b2 b1)
  | .ind => .ind (join b2 b1)
  | .izx => .izx b1
  | .izy => .izy b1

/-- An entry of the opcode table (R94): the instruction it selects, given its operand bytes; its
addressing mode; its base cycle count; and whether it pays the page-cross penalty (the `+` of R95). -/
structure Entry where
  make : Byte → Byte → Instr
  mode : Mode
  cycles : Nat
  plus : Bool

/-- Instruction length in bytes (R92). -/
def Entry.length (e : Entry) : Nat := 1 + e.mode.operandBytes

/-- A cell of the printed matrix (R95); `none` is the cell `--`. -/
abbrev Cell := Option Entry

/-- A cell with an operand form. -/
def op (f : Operand → Instr) (m : Form) (c : Nat) : Cell :=
  some ⟨fun b1 b2 => f (m.operand b1 b2), .opd m, c, false⟩

/-- A cell with an operand form and the `+` of R95. -/
def opp (f : Operand → Instr) (m : Form) (c : Nat) : Cell :=
  some ⟨fun b1 b2 => f (m.operand b1 b2), .opd m, c, true⟩

/-- A branch: Relative mode, 2 cycles (R95, R127). -/
def br (f : Byte → Instr) : Cell := some ⟨fun b1 _ => f b1, .rel, 2, false⟩

/-- An Implied cell. -/
def im (i : Instr) (c : Nat) : Cell := some ⟨fun _ _ => i, .imp, c, false⟩

/-- A Stack cell. -/
def st (i : Instr) (c : Nat) : Cell := some ⟨fun _ _ => i, .stk, c, false⟩

/-- A cell `--`. -/
def un : Cell := none

/-- Row 0x of the matrix (R95). -/
def row0 : List Cell :=
  [st .brk 7, op .ora .izx 6, un, un, un, op .ora .zp 3,
   op .asl .zp 5, un, st .php 3, op .ora .imm 2, op .asl .acc 2,
   un, un, op .ora .abs 4, op .asl .abs 6, un]

/-- Row 1x of the matrix (R95). -/
def row1 : List Cell :=
  [br .bpl, opp .ora .izy 5, un, un, un, op .ora .zpx 4,
   op .asl .zpx 6, un, im .clc 2, opp .ora .aby 4, un,
   un, un, opp .ora .abx 4, op .asl .abx 7, un]

/-- Row 2x of the matrix (R95). -/
def row2 : List Cell :=
  [op .jsr .abs 6, op .and .izx 6, un, un, op .bit .zp 3, op .and .zp 3,
   op .rol .zp 5, un, st .plp 4, op .and .imm 2, op .rol .acc 2,
   un, op .bit .abs 4, op .and .abs 4, op .rol .abs 6, un]

/-- Row 3x of the matrix (R95). -/
def row3 : List Cell :=
  [br .bmi, opp .and .izy 5, un, un, un, op .and .zpx 4,
   op .rol .zpx 6, un, im .sec 2, opp .and .aby 4, un,
   un, un, opp .and .abx 4, op .rol .abx 7, un]

/-- Row 4x of the matrix (R95). -/
def row4 : List Cell :=
  [st .rti 6, op .eor .izx 6, un, un, un, op .eor .zp 3,
   op .lsr .zp 5, un, st .pha 3, op .eor .imm 2, op .lsr .acc 2,
   un, op .jmp .abs 3, op .eor .abs 4, op .lsr .abs 6, un]

/-- Row 5x of the matrix (R95). -/
def row5 : List Cell :=
  [br .bvc, opp .eor .izy 5, un, un, un, op .eor .zpx 4,
   op .lsr .zpx 6, un, im .cli 2, opp .eor .aby 4, un,
   un, un, opp .eor .abx 4, op .lsr .abx 7, un]

/-- Row 6x of the matrix (R95). -/
def row6 : List Cell :=
  [st .rts 6, op .adc .izx 6, un, un, un, op .adc .zp 3,
   op .ror .zp 5, un, st .pla 4, op .adc .imm 2, op .ror .acc 2,
   un, op .jmp .ind 5, op .adc .abs 4, op .ror .abs 6, un]

/-- Row 7x of the matrix (R95). -/
def row7 : List Cell :=
  [br .bvs, opp .adc .izy 5, un, un, un, op .adc .zpx 4,
   op .ror .zpx 6, un, im .sei 2, opp .adc .aby 4, un,
   un, un, opp .adc .abx 4, op .ror .abx 7, un]

/-- Row 8x of the matrix (R95). -/
def row8 : List Cell :=
  [un, op .sta .izx 6, un, un, op .sty .zp 3, op .sta .zp 3,
   op .stx .zp 3, un, im .dey 2, un, im .txa 2,
   un, op .sty .abs 4, op .sta .abs 4, op .stx .abs 4, un]

/-- Row 9x of the matrix (R95). -/
def row9 : List Cell :=
  [br .bcc, op .sta .izy 6, un, un, op .sty .zpx 4, op .sta .zpx 4,
   op .stx .zpy 4, un, im .tya 2, op .sta .aby 5, im .txs 2,
   un, un, op .sta .abx 5, un, un]

/-- Row Ax of the matrix (R95). -/
def rowA : List Cell :=
  [op .ldy .imm 2, op .lda .izx 6, op .ldx .imm 2, un, op .ldy .zp 3, op .lda .zp 3,
   op .ldx .zp 3, un, im .tay 2, op .lda .imm 2, im .tax 2,
   un, op .ldy .abs 4, op .lda .abs 4, op .ldx .abs 4, un]

/-- Row Bx of the matrix (R95). -/
def rowB : List Cell :=
  [br .bcs, opp .lda .izy 5, un, un, op .ldy .zpx 4, op .lda .zpx 4,
   op .ldx .zpy 4, un, im .clv 2, opp .lda .aby 4, im .tsx 2,
   un, opp .ldy .abx 4, opp .lda .abx 4, opp .ldx .aby 4, un]

/-- Row Cx of the matrix (R95). -/
def rowC : List Cell :=
  [op .cpy .imm 2, op .cmp .izx 6, un, un, op .cpy .zp 3, op .cmp .zp 3,
   op .dec .zp 5, un, im .iny 2, op .cmp .imm 2, im .dex 2,
   un, op .cpy .abs 4, op .cmp .abs 4, op .dec .abs 6, un]

/-- Row Dx of the matrix (R95). -/
def rowD : List Cell :=
  [br .bne, opp .cmp .izy 5, un, un, un, op .cmp .zpx 4,
   op .dec .zpx 6, un, im .cld 2, opp .cmp .aby 4, un,
   un, un, opp .cmp .abx 4, op .dec .abx 7, un]

/-- Row Ex of the matrix (R95). -/
def rowE : List Cell :=
  [op .cpx .imm 2, op .sbc .izx 6, un, un, op .cpx .zp 3, op .sbc .zp 3,
   op .inc .zp 5, un, im .inx 2, op .sbc .imm 2, im .nop 2,
   un, op .cpx .abs 4, op .sbc .abs 4, op .inc .abs 6, un]

/-- Row Fx of the matrix (R95). -/
def rowF : List Cell :=
  [br .beq, opp .sbc .izy 5, un, un, un, op .sbc .zpx 4,
   op .inc .zpx 6, un, im .sed 2, opp .sbc .aby 4, un,
   un, un, opp .sbc .abx 4, op .inc .abx 7, un]

/-- The 16x16 matrix, rows by high nibble (R95). -/
def matrix : List (List Cell) :=
  [row0, row1, row2, row3, row4, row5, row6, row7] ++ [row8, row9, rowA, rowB, rowC, rowD, rowE, rowF]

/-- The entry of an unassigned opcode: Implied, 2 cycles, the no-operation handler (R96, D2). -/
def unassignedEntry (b : Byte) : Entry := ⟨fun _ _ => .unassigned b, .imp, 2, false⟩

/-- `TABLE[op[7:4]][op[3:0]]` (R91, R111): every byte has an entry. -/
def entryAt (b : Byte) : Entry :=
  (((matrix.getD (b >>> 4).toNat []).getD (b &&& 0x0F#8).toNat un)).getD (unassignedEntry b)

/-- Why a list of bytes is no instruction: only for want of bytes. -/
inductive DecodeReject where
  /-- No byte at all. -/
  | noOpcode
  /-- The opcode `b` is there and `need` operand bytes are not. -/
  | operandMissing (b : Byte) (need : Nat)
deriving DecidableEq, Repr

/-- The decoder: the first instruction of a list of bytes, and the bytes after it (R90 to R93). -/
def decode : List Byte → Except DecodeReject (Instr × List Byte)
  | [] => .error .noOpcode
  | b :: rest =>
    match (entryAt b).mode.operandBytes, rest with
    | 0, rest => .ok ((entryAt b).make 0 0, rest)
    | 1, b1 :: rest => .ok ((entryAt b).make b1 0, rest)
    | 2, b1 :: b2 :: rest => .ok ((entryAt b).make b1 b2, rest)
    | n, _ => .error (.operandMissing b n)

/-! The encoder. -/

/-- The opcode listed for the operand's form. -/
def opcodeAt (o : Operand) : List (Form × Byte) → Option Byte
  | [] => none
  | (f, b) :: rest => if f = o.form then some b else opcodeAt o rest

/-- The opcode byte of an instruction, from the table by mnemonic (R97); none for a term outside it. -/
def opcodeOf : Instr → Option Byte
  | .lda o => opcodeAt o [(.izx, 0xA1), (.zp, 0xA5), (.imm, 0xA9), (.abs, 0xAD), (.izy, 0xB1), (.zpx, 0xB5), (.aby, 0xB9), (.abx, 0xBD)]
  | .ldx o => opcodeAt o [(.imm, 0xA2), (.zp, 0xA6), (.abs, 0xAE), (.zpy, 0xB6), (.aby, 0xBE)]
  | .ldy o => opcodeAt o [(.imm, 0xA0), (.zp, 0xA4), (.abs, 0xAC), (.zpx, 0xB4), (.abx, 0xBC)]
  | .sta o => opcodeAt o [(.izx, 0x81), (.zp, 0x85), (.abs, 0x8D), (.izy, 0x91), (.zpx, 0x95), (.aby, 0x99), (.abx, 0x9D)]
  | .stx o => opcodeAt o [(.zp, 0x86), (.abs, 0x8E), (.zpy, 0x96)]
  | .sty o => opcodeAt o [(.zp, 0x84), (.abs, 0x8C), (.zpx, 0x94)]
  | .tax => some 0xAA
  | .tay => some 0xA8
  | .txa => some 0x8A
  | .tya => some 0x98
  | .tsx => some 0xBA
  | .txs => some 0x9A
  | .adc o => opcodeAt o [(.izx, 0x61), (.zp, 0x65), (.imm, 0x69), (.abs, 0x6D), (.izy, 0x71), (.zpx, 0x75), (.aby, 0x79), (.abx, 0x7D)]
  | .sbc o => opcodeAt o [(.izx, 0xE1), (.zp, 0xE5), (.imm, 0xE9), (.abs, 0xED), (.izy, 0xF1), (.zpx, 0xF5), (.aby, 0xF9), (.abx, 0xFD)]
  | .cmp o => opcodeAt o [(.izx, 0xC1), (.zp, 0xC5), (.imm, 0xC9), (.abs, 0xCD), (.izy, 0xD1), (.zpx, 0xD5), (.aby, 0xD9), (.abx, 0xDD)]
  | .cpx o => opcodeAt o [(.imm, 0xE0), (.zp, 0xE4), (.abs, 0xEC)]
  | .cpy o => opcodeAt o [(.imm, 0xC0), (.zp, 0xC4), (.abs, 0xCC)]
  | .inc o => opcodeAt o [(.zp, 0xE6), (.abs, 0xEE), (.zpx, 0xF6), (.abx, 0xFE)]
  | .dec o => opcodeAt o [(.zp, 0xC6), (.abs, 0xCE), (.zpx, 0xD6), (.abx, 0xDE)]
  | .inx => some 0xE8
  | .iny => some 0xC8
  | .dex => some 0xCA
  | .dey => some 0x88
  | .and o => opcodeAt o [(.izx, 0x21), (.zp, 0x25), (.imm, 0x29), (.abs, 0x2D), (.izy, 0x31), (.zpx, 0x35), (.aby, 0x39), (.abx, 0x3D)]
  | .ora o => opcodeAt o [(.izx, 0x01), (.zp, 0x05), (.imm, 0x09), (.abs, 0x0D), (.izy, 0x11), (.zpx, 0x15), (.aby, 0x19), (.abx, 0x1D)]
  | .eor o => opcodeAt o [(.izx, 0x41), (.zp, 0x45), (.imm, 0x49), (.abs, 0x4D), (.izy, 0x51), (.zpx, 0x55), (.aby, 0x59), (.abx, 0x5D)]
  | .bit o => opcodeAt o [(.zp, 0x24), (.abs, 0x2C)]
  | .asl o => opcodeAt o [(.zp, 0x06), (.acc, 0x0A), (.abs, 0x0E), (.zpx, 0x16), (.abx, 0x1E)]
  | .lsr o => opcodeAt o [(.zp, 0x46), (.acc, 0x4A), (.abs, 0x4E), (.zpx, 0x56), (.abx, 0x5E)]
  | .rol o => opcodeAt o [(.zp, 0x26), (.acc, 0x2A), (.abs, 0x2E), (.zpx, 0x36), (.abx, 0x3E)]
  | .ror o => opcodeAt o [(.zp, 0x66), (.acc, 0x6A), (.abs, 0x6E), (.zpx, 0x76), (.abx, 0x7E)]
  | .bcc _ => some 0x90
  | .bcs _ => some 0xB0
  | .beq _ => some 0xF0
  | .bmi _ => some 0x30
  | .bne _ => some 0xD0
  | .bpl _ => some 0x10
  | .bvc _ => some 0x50
  | .bvs _ => some 0x70
  | .jmp o => opcodeAt o [(.abs, 0x4C), (.ind, 0x6C)]
  | .jsr o => opcodeAt o [(.abs, 0x20)]
  | .rts => some 0x60
  | .pha => some 0x48
  | .php => some 0x08
  | .pla => some 0x68
  | .plp => some 0x28
  | .clc => some 0x18
  | .sec => some 0x38
  | .cli => some 0x58
  | .sei => some 0x78
  | .cld => some 0xD8
  | .sed => some 0xF8
  | .clv => some 0xB8
  | .nop => some 0xEA
  | .brk => some 0x00
  | .rti => some 0x40
  | .unassigned b => if unassignedBytes.contains b then some b else none

/-- The operand bytes of an operand, low byte first (R90, R93). -/
def Operand.bytes : Operand → List Byte
  | .acc => []
  | .imm n => [n]
  | .zp z | .zpx z | .zpy z | .izx z | .izy z => [z]
  | .abs w | .abx w | .aby w | .ind w => [loByte w, hiByte w]

/-- The bytes after the opcode. -/
def Instr.operandBytes : Instr → List Byte
  | .lda o | .ldx o | .ldy o | .sta o | .stx o | .sty o => o.bytes
  | .adc o | .sbc o | .cmp o | .cpx o | .cpy o | .inc o | .dec o => o.bytes
  | .and o | .ora o | .eor o | .bit o | .asl o | .lsr o | .rol o | .ror o => o.bytes
  | .jmp o | .jsr o => o.bytes
  | .bcc d | .bcs d | .beq d | .bmi d | .bne d | .bpl d | .bvc d | .bvs d => [d]
  | .tax | .tay | .txa | .tya | .tsx | .txs | .inx | .iny | .dex | .dey => []
  | .rts | .pha | .php | .pla | .plp | .nop | .brk | .rti => []
  | .clc | .sec | .cli | .sei | .cld | .sed | .clv | .unassigned _ => []

/-- The bytes of a well-formed instruction. -/
def encode (i : Instr) : List Byte :=
  match opcodeOf i with
  | some b => b :: i.operandBytes
  | none => []

/-- The table entry of an instruction: that of its opcode (R94). -/
def entryOf (i : Instr) : Option Entry := (opcodeOf i).map entryAt

/-! The host's word form. -/

/-- Byte `k` of the word `w`, whose bits from `nbits` up are zero. -/
def tableByte (nbits w k : Nat) : Byte := BitVec.ofNat 8 ((w % 2 ^ nbits) >>> (8 * k))

/-- The instruction the decoder reads from the `nbits` bits of `w`, the first byte in bits 7..0. -/
def decodeTableWord (nbits w : Nat) : Option Instr :=
  match decode [tableByte nbits w 0, tableByte nbits w 1, tableByte nbits w 2] with
  | .ok (i, _) => some i
  | .error _ => none

end Sys2Proof
end

