-- ==== Sys2Proof/Config.lean ====
section
/-! DEFINITION. What a launch of the machine is given (R6), as plain data, and the free values: opaque constants with no body, so that nothing can be proved of what they are. -/

namespace Sys2Proof

/-- A read interceptor on the primary bus (R62): a partial function from addresses to bytes. -/
inductive ReadInterceptor where
  /-- FlatMem's read half (R74): answers every address it is asked with the backing array. -/
  | flatMem
  /-- A peripheral without state: its whole partial function written out (a ROM, say). -/
  | fixed (answers : List Host.Cell)
  /-- An external peripheral, known by a number only: its answers are `Config.readAnswer`. -/
  | external (id : Nat)
deriving DecidableEq, Repr

/-- A write interceptor on the primary bus (R63). -/
inductive WriteInterceptor where
  /-- FlatMem's write half (R74): stores into the backing array. -/
  | flatMem
  /-- An external peripheral: the call goes into the transcript. -/
  | external (id : Nat)
deriving DecidableEq, Repr

/-- A read interceptor of the PPU read channel (R70), which never reads `ram`. -/
inductive PpuInterceptor where
  | fixed (answers : List Host.Cell)
  | external (id : Nat)
deriving DecidableEq, Repr

/-- A callback of the Clock (R281). -/
inductive TickCallback where
  /-- `GateTick`, the CPU's own callback (R283). -/
  | gate
  /-- A callback of an external peripheral. -/
  | external (id : Nat)
deriving DecidableEq, Repr

/-- The two parameters of the test run loop (R262, D20). -/
structure TestStatus where
  /-- `TEST_STATUS_ADDR` -/
  addr : Addr
  /-- `TEST_DONE`: the bytes on which the run ends. -/
  done : List Byte
deriving DecidableEq, Repr

/-- The launch parameters (R6): fixed before the run starts, changed by no step. -/
structure Platform where
  readInterceptors : List ReadInterceptor
  writeInterceptors : List WriteInterceptor
  ppuReadInterceptors : List PpuInterceptor
  tickCallbacks : List TickCallback
  /-- `TICK_DIVISOR`, clock ticks per CPU cycle. -/
  tickDivisor : Nat
  /-- `none` is the plain `Run` loop, `some` the `RunTest` loop (R287). -/
  testStatus : Option TestStatus
deriving DecidableEq, Repr

/-- One exchange between the block and the world outside it. -/
inductive Event where
  /-- External read interceptor `id` was called with `addr` and gave `answer` (R58). -/
  | readAsked (id : Nat) (addr : Addr) (answer : Option Byte)
  /-- External write interceptor `id` was called with `addr` and `value` (R60). -/
  | writeTold (id : Nat) (addr : Addr) (value : Byte)
  /-- The tick callback of external peripheral `id` was called (R281). -/
  | tickTold (id : Nat)
  /-- External PPU read interceptor `id` was called with `addr` and gave `answer` (R70). -/
  | ppuAsked (id : Nat) (addr : Addr) (answer : Option Byte)
  /-- The PPU read channel returned `value` to the video unit (R70). -/
  | ppuReplied (addr : Addr) (value : Byte)
deriving DecidableEq, Repr

/-- `RAM_INIT`, the byte an index of the backing array holds while nothing has written it (R44, D17).
Free value, one for each index (log entry 1). -/
opaque Config.ramInit (index : Nat) : Byte

/-- `LATCH_INIT`, the address latch before the first access (R44, U8). Free value (log entry 2). -/
opaque Config.addrLatchInit : Addr

/-- `LATCH_INIT`, the data latch before the first access (R44, U8). Free value (log entry 2). -/
opaque Config.dataLatchInit : Byte

/-- `TICK_INTERVAL` (R6, D15): no rule reads it. Free value (log entry 4). -/
opaque Config.tickInterval : Nat

/-- What external read interceptor `id` answers at `addr`, after the exchanges so far (R62).
Free value (log entry 6). -/
opaque Config.readAnswer (id : Nat) (sofar : List Event) (addr : Addr) : Option Byte

/-- What external PPU read interceptor `id` answers at `addr` (R70). Free value (log entry 6). -/
opaque Config.ppuAnswer (id : Nat) (sofar : List Event) (addr : Addr) : Option Byte

/-- The byte the PPU channel returns when nobody answers (R70, U7). Free value (log entry 6). -/
opaque Config.ppuNoAnswer (sofar : List Event) (addr : Addr) : Byte

end Sys2Proof
end

