-- ==== Sys2Proof/Machine/State.lean ====
section
/-! DEFINITION. The state of NES_Clone CORE as plain data, the named ways a run stops, and the state after reset. -/

namespace Sys2Proof.Machine

/-- The eight named bits of `P` (R27). -/
inductive Flag where
  /-- Carry -/
  | c
  /-- Zero -/
  | z
  /-- InterruptDisable -/
  | i
  /-- Decimal -/
  | d
  /-- Break -/
  | b
  /-- Unused -/
  | u
  /-- Overflow -/
  | v
  /-- Negative -/
  | n
deriving DecidableEq, Repr

/-- One turn of an agent in the order in which the agents interleave (R280, R288). -/
inductive Input where
  /-- The CPU's turn: an instruction if the gate is open, else a poll of it (R284). -/
  | cpu
  /-- The Clock ticks once (R281). -/
  | tick
  /-- The host clears `powered_on` (R286). -/
  | powerOff
  /-- The host calls `Boot` on the running machine, a warm reset (R272). -/
  | boot
  /-- The video unit reads the PPU channel (R70). -/
  | ppuRead (addr : Addr)
deriving DecidableEq, Repr

/-- The backing array of the bus (R41): pairs of index and byte for what has been written. An index that
is not listed holds no written byte and shows its `Config.ramInit`. -/
abbrev Memory := List Host.Cell

/-- Every index of `m` is above `k`. -/
def Memory.above (k : Nat) : Memory → Bool
  | [] => true
  | (j, _) :: _ => k < j

/-- The canonical form: indices strictly rising and below 65536 (R41). Two arrays with the same written
bytes are then the same list (log entry 22). -/
def Memory.wf : Memory → Bool
  | [] => true
  | (k, _) :: rest => k < 65536 && Memory.above k rest && Memory.wf rest

/-- The whole machine. The per-instruction temporaries `ea`, `uses_acc`, `opnd` are no part of it
(R40, D27). -/
structure State where
  /-- `A`, accumulator (R21) -/
  a : Byte
  /-- `X`, index register (R22) -/
  x : Byte
  /-- `Y`, index register (R23) -/
  y : Byte
  /-- `S`, stack pointer (R24) -/
  sp : Byte
  /-- `P`, status, all eight bits storage (R25, R27) -/
  p : Byte
  /-- `PC`, program counter (R26) -/
  pc : Addr
  /-- the bus's backing array (R41) -/
  ram : Memory
  /-- address latch (R41, R61) -/
  addrLatch : Addr
  /-- data latch (R41, R61) -/
  dataLatch : Byte
  /-- the launch parameters: interceptor lists, Clock callbacks, divisor, test loop (R6) -/
  platform : Platform
  /-- the gate's countdown (R42) -/
  cyclesPending : Nat
  /-- the gate's ready flag (R42) -/
  ready : Bool
  /-- ticks since the last cycle (R42) -/
  tickCount : Nat
  /-- polled by the run loop (R43) -/
  poweredOn : Bool
  /-- the test loop has seen its sentinel (R262, R287) -/
  runEnded : Bool
  /-- the agents' next turns, in order; when none is left the gate decides (log entry 8). The model's own
  field -/
  inputs : List Input
  /-- the exchanges with the world outside the block, newest first, the model's own field -/
  transcript : List Event
deriving DecidableEq, Repr

/-- Why the machine stops. No instruction raises one (R250): both come from `step`, and both are safe,
because nothing runs after them on the hardware either (R263, R287). -/
inductive Fault where
  /-- Raised by `step`: `powered_on` is clear, so the CPU never steps again (R286). Safe. -/
  | poweredOff
  /-- Raised by `step`: the test loop has seen the sentinel and the run has ended (R262). Safe. -/
  | testRunEnded
deriving DecidableEq, Repr

/-- What the model gives no meaning to. -/
inductive Refusal where
  /-- Raised by `exec`'s arm of an instruction without a meaning. Safe. -/
  | notModelled (mnemonic : String)
  /-- Raised by a meaning on a term of `Instr` that is no row of the opcode table (an operand form the
  instruction does not have); no bytes decode to one. Safe. -/
  | notInTable
  /-- Raised by the host operation `load` past index 65535 (R67, U6). Safe. -/
  | loadOverrun
deriving DecidableEq, Repr

/-- What every operation that may be refused answers with. -/
abbrev Result := Host.Outcome State Fault Refusal

/-- The launch parameters after construction: empty lists (R270). -/
def emptyPlatform : Platform where
  readInterceptors := []
  writeInterceptors := []
  ppuReadInterceptors := []
  tickCallbacks := []
  tickDivisor := 1
  testStatus := none

/-- The launch parameters of `State.reset`: FlatMem alone on the bus (R74), the gate callback on the
Clock (R271). DESIGN CHOICE (log entries 3 to 5), unsafe. -/
def resetPlatform : Platform where
  readInterceptors := [.flatMem]
  writeInterceptors := [.flatMem]
  ppuReadInterceptors := []
  tickCallbacks := [.gate]
  tickDivisor := 1
  testStatus := none

/-- The machine as constructed, before registration, `load` and `Boot` (R270, R45). -/
def State.construction : State where
  a := 0#8
  x := 0#8
  y := 0#8
  sp := 0#8
  p := 0x04#8
  pc := 0#16
  ram := []
  addrLatch := Config.addrLatchInit
  dataLatch := Config.dataLatchInit
  platform := emptyPlatform
  cyclesPending := 0
  ready := true
  tickCount := 0
  poweredOn := true
  runEnded := false
  inputs := []
  transcript := []

/-- The machine right after reset: construction, registration of FlatMem and of the gate callback,
nothing loaded, then `Boot` (R271, R272, and the column "after `Boot`" of R45), so the vector is that of
the free values `RAM_INIT`. -/
def State.reset : State where
  a := 0#8
  x := 0#8
  y := 0#8
  sp := 0xFF#8
  p := 0x04#8
  pc := Config.ramInit 0xFFFD ++ Config.ramInit 0xFFFC
  ram := []
  addrLatch := 0xFFFD#16
  dataLatch := Config.ramInit 0xFFFD
  platform := resetPlatform
  cyclesPending := 0
  ready := true
  tickCount := 0
  poweredOn := true
  runEnded := false
  inputs := []
  transcript := []

/-! Named updates, one for each field that something writes. -/

def State.setA (v : Byte) (s : State) : State := { s with a := v }
def State.setX (v : Byte) (s : State) : State := { s with x := v }
def State.setY (v : Byte) (s : State) : State := { s with y := v }
def State.setSp (v : Byte) (s : State) : State := { s with sp := v }
def State.setP (v : Byte) (s : State) : State := { s with p := v }
def State.setPc (v : Addr) (s : State) : State := { s with pc := v }
def State.setRam (m : Memory) (s : State) : State := { s with ram := m }
def State.setAddrLatch (v : Addr) (s : State) : State := { s with addrLatch := v }
def State.setDataLatch (v : Byte) (s : State) : State := { s with dataLatch := v }
def State.setPlatform (v : Platform) (s : State) : State := { s with platform := v }
def State.setCyclesPending (v : Nat) (s : State) : State := { s with cyclesPending := v }
def State.setReady (v : Bool) (s : State) : State := { s with ready := v }
def State.setTickCount (v : Nat) (s : State) : State := { s with tickCount := v }
def State.setPoweredOn (v : Bool) (s : State) : State := { s with poweredOn := v }
def State.setRunEnded (v : Bool) (s : State) : State := { s with runEnded := v }
def State.setInputs (v : List Input) (s : State) : State := { s with inputs := v }
def State.setTranscript (v : List Event) (s : State) : State := { s with transcript := v }

end Sys2Proof.Machine
end

