-- ==== Sys2Proof/Machine/Flags.lean ====
section
/-! DEFINITION. The flags of `P` and every flag computation (R27, R29, R160 to R162, R183 to R187). -/

namespace Sys2Proof.Machine

/-- Bit number in `P` (R27). -/
def Flag.bit : Flag → Nat
  | .c => 0
  | .z => 1
  | .i => 2
  | .d => 3
  | .b => 4
  | .u => 5
  | .v => 6
  | .n => 7

/-- The flag's mask (R27). -/
def Flag.mask (f : Flag) : Byte := 1#8 <<< f.bit

/-- `P` with one flag written, the other seven bits kept. -/
def putFlag (f : Flag) (v : Bool) (p : Byte) : Byte :=
  if v then p ||| f.mask else p &&& ~~~f.mask

/-- One flag of the machine. -/
def State.flag (f : Flag) (s : State) : Bool := s.p.getLsbD f.bit

/-- Write one flag. -/
def State.setFlag (f : Flag) (v : Bool) (s : State) : State := s.setP (putFlag f v s.p)

/-- `SetZN(v)`: `Z` iff the byte is zero, `N` is its bit 7; both always written (R29). -/
def State.setZN (v : Byte) (s : State) : State :=
  (s.setFlag .z (v == 0#8)).setFlag .n (v.getLsbD 7)

/-- The status byte that PHP and BRK push: bits 4 and 5 set (R221, R236). -/
def pushedStatus (p : Byte) : Byte := p ||| 0x30#8

/-- The status that PLP leaves: bits 4 and 5 clear (R223). -/
def maskedStatus (v : Byte) : Byte := v &&& 0xCF#8

/-- A carry flag as a number. -/
def carryNat (c : Bool) : Nat := if c then 1 else 0

/-- The exact sum of R160: `A + opnd + C`, 0 to 511. -/
def addSum (a m : Byte) (c : Bool) : Nat := a.toNat + m.toNat + carryNat c

/-- The 8-bit result of the sum (R160). -/
def addResult (a m : Byte) (c : Bool) : Byte := BitVec.ofNat 8 (addSum a m c)

/-- Carry out: the sum exceeds 0xFF (R160). -/
def addCarry (a m : Byte) (c : Bool) : Bool := 0xFF < addSum a m c

/-- Signed overflow: `(A ^ res) & (opnd ^ res) & 0x80` is not zero (R160, R173). -/
def addOverflow (a m : Byte) (c : Bool) : Bool :=
  (a ^^^ addResult a m c) &&& (m ^^^ addResult a m c) &&& 0x80#8 != 0#8

/-- ADC's result and flags (R160). -/
def State.addWithCarry (m : Byte) (s : State) : State :=
  let r := addResult s.a m (s.flag .c)
  (((s.setFlag .c (addCarry s.a m (s.flag .c))).setFlag .v (addOverflow s.a m (s.flag .c))).setA r).setZN r

/-- CMP, CPX, CPY: `C` iff register >= operand, unsigned; `Z`, `N` from the 8-bit difference (R162). -/
def State.compare (r m : Byte) (s : State) : State :=
  (s.setFlag .c (decide (m.toNat ≤ r.toNat))).setZN (r - m)

/-- BIT: `Z` from `A & opnd`, `V` and `N` from bits 6 and 7 of the operand (R183). -/
def State.bitTest (m : Byte) (s : State) : State :=
  ((s.setFlag .z (s.a &&& m == 0#8)).setFlag .v (m.getLsbD 6)).setFlag .n (m.getLsbD 7)

/-! The four shifts: result byte, and the bit shifted out (R184 to R188). `c` is the carry before. -/

/-- ASL's result: bit 0 is 0 (R184). -/
def aslByte (m : Byte) : Byte := m <<< 1
/-- LSR's result: bit 7 is 0 (R185). -/
def lsrByte (m : Byte) : Byte := m >>> 1
/-- ROL's result: the old carry in bit 0 (R186). -/
def rolByte (m : Byte) (c : Bool) : Byte := (m <<< 1) ||| (if c then 0x01#8 else 0#8)
/-- ROR's result: the old carry in bit 7 (R187). -/
def rorByte (m : Byte) (c : Bool) : Byte := (m >>> 1) ||| (if c then 0x80#8 else 0#8)

end Sys2Proof.Machine
end

