-- ==== Sys2Proof/Machine/Ops.lean ====
section
/-! DEFINITION. The named operations over memory and registers: the backing array, the bus, the stack, the trap and its return, the Clock and the gate, the PPU channel, and what the host does before a run. -/

namespace Sys2Proof.Machine

/-! ## The backing array (R41) -/

/-- Read one byte of the array. -/
def Memory.get : Memory → Nat → Byte
  | [], j => Config.ramInit j
  | (k, v) :: rest, j => if k = j then v else Memory.get rest j

/-- Write one byte of the array, keeping the canonical form. -/
def Memory.set : Memory → Nat → Byte → Memory
  | [], j, v => [(j, v)]
  | (k, w) :: rest, j, v =>
    if j < k then (j, v) :: (k, w) :: rest
    else if j = k then (j, v) :: rest
    else (k, w) :: Memory.set rest j v

/-- Write bytes at consecutive indices. -/
def Memory.setAll : Memory → Nat → List Byte → Memory
  | m, _, [] => m
  | m, j, v :: vs => Memory.setAll (Memory.set m j v) (j + 1) vs

/-! ## The bus (R58 to R65) -/

/-- `addr mod 0x0800`, the array index behind a RAM address (R56). -/
def ramIndex (a : Addr) : Nat := a.toNat % 0x800

/-- `addr < 0x2000`: exclusively RAM (R55). -/
def isRam (a : Addr) : Bool := a.toNat < 0x2000

/-- The answer of a written-out partial function (R62). -/
def fixedAnswer : List Host.Cell → Addr → Option Byte
  | [], _ => none
  | (k, v) :: rest, a => if k = a.toNat then some v else fixedAnswer rest a

/-- The read interceptors in registration order: the first answer wins and later ones are not called
(R58). The transcript records every call of an external one. -/
def askReaders : List ReadInterceptor → Addr → Memory → List Event → Option Byte × List Event
  | [], _, _, tr => (none, tr)
  | .flatMem :: _, a, m, tr => (some (Memory.get m a.toNat), tr)
  | .fixed cells :: rest, a, m, tr =>
    match fixedAnswer cells a with
    | some v => (some v, tr)
    | none => askReaders rest a m tr
  | .external id :: rest, a, m, tr =>
    match Config.readAnswer id tr a with
    | some v => (some v, .readAsked id a (some v) :: tr)
    | none => askReaders rest a m (.readAsked id a none :: tr)

/-- What RAM or the interceptors answer to a read of `a`, and the transcript after it. -/
def State.answer (a : Addr) (s : State) : Option Byte × List Event :=
  if isRam a then (some (Memory.get s.ram (ramIndex a)), s.transcript)
  else askReaders s.platform.readInterceptors a s.ram s.transcript

/-- `Read(addr)` (R58): with no answer the byte is the data latch (open bus, R59); both latches
follow every read (R61). -/
def State.busRead (a : Addr) (s : State) : Byte × State :=
  let v := (s.answer a).1.getD s.dataLatch
  (v, ((s.setTranscript (s.answer a).2).setAddrLatch a).setDataLatch v)

/-- The write interceptors in registration order, every one of them (R60). -/
def tellWriters : List WriteInterceptor → Addr → Byte → Memory → List Event → Memory × List Event
  | [], _, _, m, tr => (m, tr)
  | .flatMem :: rest, a, v, m, tr => tellWriters rest a v (Memory.set m a.toNat v) tr
  | .external id :: rest, a, v, m, tr => tellWriters rest a v m (.writeTold id a v :: tr)

/-- What a write of `v` to `a` leaves in the array and in the transcript. -/
def State.stored (a : Addr) (v : Byte) (s : State) : Memory × List Event :=
  if isRam a then (Memory.set s.ram (ramIndex a) v, s.transcript)
  else tellWriters s.platform.writeInterceptors a v s.ram s.transcript

/-- `Write(addr, value)` (R60). -/
def State.busWrite (a : Addr) (v : Byte) (s : State) : State :=
  (((s.setRam (s.stored a v).1).setTranscript (s.stored a v).2).setAddrLatch a).setDataLatch v

/-- The array index a bus write to `a` stores at: the mirrored cell below 0x2000, FlatMem's cell above
if FlatMem is registered, else none (R56, R60, R74). -/
def State.storeIndex (a : Addr) (s : State) : Option Nat :=
  if isRam a then some (ramIndex a)
  else if s.platform.writeInterceptors.contains .flatMem then some a.toNat
  else none

/-- Two reads that form a 16-bit value, low byte first (R50, R72). -/
def State.readPair (alo ahi : Addr) (s : State) : Addr × State :=
  let lo := s.busRead alo
  let hi := lo.2.busRead ahi
  (join hi.1 lo.1, hi.2)

/-! ## The stack (R24) -/

/-- `0x0100 + S`: never outside page 0x01. -/
def stackAddr (sp : Byte) : Addr := join 0x01#8 sp

/-- `Push(v)` (R24). -/
def State.push (v : Byte) (s : State) : State :=
  (s.busWrite (stackAddr s.sp) v).setSp (s.sp - 1#8)

/-- `Pull()` (R24). -/
def State.pull (s : State) : Byte × State :=
  (s.setSp (s.sp + 1#8)).busRead (stackAddr (s.sp + 1#8))

/-- A 16-bit value pushed high byte first (R72). -/
def State.pushWord (w : Addr) (s : State) : State := (s.push (hiByte w)).push (loByte w)

/-- A 16-bit value pulled low byte first (R72). -/
def State.pullWord (s : State) : Addr × State :=
  let lo := s.pull
  let hi := lo.2.pull
  (join hi.1 lo.1, hi.2)

/-! ## The trap and its return (R236, R237, R252 to R256) -/

/-- The BRK vector (R68). -/
def breakVector : Addr := 0xFFFE#16

/-- The only trap entry: push `PC + 1` high byte first, push the status with bits 4 and 5 set, set
`I`, load `PC` from the BRK vector (R236, R253). -/
def State.takeBreak (s : State) : State :=
  let t := ((s.pushWord (s.pc + 1#16)).push (pushedStatus s.p)).setFlag .i true
  let v := t.readPair breakVector (breakVector + 1#16)
  v.2.setPc v.1

/-- The return: `P` as pulled, all eight bits, then `PC` with no adjustment (R237, R256). -/
def State.returnFromBreak (s : State) : State :=
  let st := s.pull
  let w := (st.2.setP st.1).pullWord
  w.2.setPc w.1

/-! ## Boot and the host's operations before a run (R64, R67, R270 to R272) -/

/-- The reset vector (R68). -/
def resetVector : Addr := 0xFFFC#16

/-- `Boot()` (R272), on a fresh or on a running machine. -/
def State.boot (s : State) : State :=
  let v := s.readPair resetVector (resetVector + 1#16)
  (v.2.setPc v.1).setSp 0xFF#8

/-- `load(start, data)`: straight into the array, no mirroring, no latch; refused past index 65535
(R67, D23). -/
def load (start : Addr) (data : List Byte) (s : State) : Result :=
  if start.toNat + data.length ≤ 65536 then .next (s.setRam (Memory.setAll s.ram start.toNat data))
  else .refused .loadOverrun

/-- `RegisterForReads` (R64): appended, so later in dispatch order. -/
def State.registerRead (f : ReadInterceptor) (s : State) : State :=
  s.setPlatform { s.platform with readInterceptors := s.platform.readInterceptors ++ [f] }

/-- `RegisterForWrites` (R64). -/
def State.registerWrite (g : WriteInterceptor) (s : State) : State :=
  s.setPlatform { s.platform with writeInterceptors := s.platform.writeInterceptors ++ [g] }

/-- `RegisterForPPUReads` (R64). -/
def State.registerPpuRead (f : PpuInterceptor) (s : State) : State :=
  s.setPlatform { s.platform with ppuReadInterceptors := s.platform.ppuReadInterceptors ++ [f] }

/-- Registration of a tick callback with the Clock (R271 step 2, R281). -/
def State.registerTick (c : TickCallback) (s : State) : State :=
  s.setPlatform { s.platform with tickCallbacks := s.platform.tickCallbacks ++ [c] }

/-! ## The Clock and the cycle gate (R281 to R285) -/

/-- `GateTick()` (R283). -/
def State.gateTick (s : State) : State :=
  if s.tickCount + 1 = s.platform.tickDivisor then
    let n := s.cyclesPending - 1
    ((s.setTickCount 0).setCyclesPending n).setReady (s.ready || n == 0)
  else s.setTickCount (s.tickCount + 1)

/-- One tick callback (R281). -/
def State.callTick (s : State) : TickCallback → State
  | .gate => s.gateTick
  | .external id => s.setTranscript (.tickTold id :: s.transcript)

/-- One `Tick`: every registered callback once, in registration order (R281). -/
def State.tick (s : State) : State := s.platform.tickCallbacks.foldl State.callTick s

/-! ## The PPU read channel (R70) -/

/-- The channel's interceptors in registration order, the first answer wins. -/
def askPpu : List PpuInterceptor → Addr → List Event → Option Byte × List Event
  | [], _, tr => (none, tr)
  | .fixed cells :: rest, a, tr =>
    match fixedAnswer cells a with
    | some v => (some v, tr)
    | none => askPpu rest a tr
  | .external id :: rest, a, tr =>
    match Config.ppuAnswer id tr a with
    | some v => (some v, .ppuAsked id a (some v) :: tr)
    | none => askPpu rest a (.ppuAsked id a none :: tr)

/-- `PPURead(addr)`: no RAM, no primary list, no latch; the byte is free where nobody answers (R70, U7).
The reply goes to the video unit, so it stands in the transcript. -/
def State.ppuRead (a : Addr) (s : State) : Byte × State :=
  let r := askPpu s.platform.ppuReadInterceptors a s.transcript
  let v := r.1.getD (Config.ppuNoAnswer r.2 a)
  (v, s.setTranscript (.ppuReplied a v :: r.2))

/-! ## The run loop (R262, R280, R286, R287) -/

/-- `RunTest`'s poll after an instruction, a real bus read; `Run` does not poll (R262, R287). -/
def State.pollTest (s : State) : State :=
  match s.platform.testStatus with
  | none => s
  | some t =>
    let r := s.busRead t.addr
    if t.done.contains r.1 then r.2.setRunEnded true else r.2

end Sys2Proof.Machine
end

