-- ==== Sys2Proof/Machine/Operands.lean ====
section
/-! DEFINITION. The addressing-mode resolvers (R113 to R131), the cycle cost (R130, R200, R282), and the shapes of instruction that share them (R115). -/

namespace Sys2Proof.Machine

/-- `page(a) = a[15:8]`. -/
def page (a : Addr) : Byte := hiByte a

/-- `zext_16(b)` (R8). -/
def zext16 (b : Byte) : Addr := join 0#8 b

/-- `sext_16(b)` (R8). -/
def sext16 (b : Byte) : Addr := b.signExtend 16

/-- The second address of the JMP-indirect pointer: the low byte steps and the page stays (R124, D9). -/
def samePageNext (w : Addr) : Addr := join (hiByte w) (loByte w + 1#8)

/-- What a resolver hands to the handler (R40): where the operand is. -/
inductive Place where
  /-- `uses_acc = 1` (R116) -/
  | acc
  /-- the operand byte itself, and the address it was read from (R117) -/
  | imm (n : Byte) (ea : Addr)
  /-- `ea`, and whether indexing left the page of the base (R130) -/
  | mem (ea : Addr) (cross : Bool)
deriving DecidableEq, Repr

/-- Whether indexing crossed a page. -/
def Place.cross : Place → Bool
  | .mem _ c => c
  | .acc | .imm _ _ => false

/-- `u16(base + index)`, the index unsigned (R122, R123, R126). -/
def indexed (base : Addr) (i : Byte) : Place :=
  .mem (base + zext16 i) (page (base + zext16 i) != page base)

/-- The resolver of an operand form, its operand bytes already read (R110): computes `ea`, reading a
pointer where the form has one. `PC` is the address after the instruction. -/
def State.place (o : Operand) (s : State) : Place × State :=
  match o with
  | .acc => (.acc, s)
  | .imm n => (.imm n (s.pc - 1#16), s)
  | .zp z => (.mem (zext16 z) false, s)
  | .zpx z => (.mem (zext16 (z + s.x)) false, s)
  | .zpy z => (.mem (zext16 (z + s.y)) false, s)
  | .abs w => (.mem w false, s)
  | .abx w => (indexed w s.x, s)
  | .aby w => (indexed w s.y, s)
  | .ind w =>
    let r := s.readPair w (samePageNext w)
    (.mem r.1 false, r.2)
  | .izx z =>
    let r := s.readPair (zext16 (z + s.x)) (zext16 (z + s.x + 1#8))
    (.mem r.1 false, r.2)
  | .izy z =>
    let r := s.readPair (zext16 z) (zext16 (z + 1#8))
    (indexed r.1 s.y, r.2)

/-- The operand value at a place: `A`, the immediate byte, or one read at `ea` (R115, R116, R117). -/
def State.readPlace (pl : Place) (s : State) : Byte × State :=
  match pl with
  | .acc => (s.a, s)
  | .imm n _ => (n, s)
  | .mem ea _ => s.busRead ea

/-- `WriteBack(v)` (R131). -/
def State.writeBack (pl : Place) (v : Byte) (s : State) : State :=
  match pl with
  | .acc => s.setA v
  | .imm _ ea => s.busWrite ea v
  | .mem ea _ => s.busWrite ea v

/-- `PC <- ea` (R114, R209). -/
def State.jumpTo (pl : Place) (s : State) : State :=
  match pl with
  | .acc => s
  | .imm _ ea => s.setPc ea
  | .mem ea _ => s.setPc ea

/-- The resolver and the read at `ea` of a read-class or RMW instruction: the value, the place, the
state after (R115). -/
def State.operand (o : Operand) (s : State) : Byte × State :=
  (s.place o).2.readPlace (s.place o).1

/-! ## Cycle cost (R282) -/

/-- The page-cross penalty of an entry marked `+` (R130). -/
def State.crossPenalty (o : Operand) (s : State) (e : Entry) : Nat :=
  if e.plus && (s.place o).1.cross then 1 else 0

/-- The branch target `u16(PC + sext_16(off))` (R127). -/
def branchTarget (off : Byte) (s : State) : Addr := s.pc + sext16 off

/-- Not taken 0, taken 1, taken across a page 2 (R200). -/
def State.branchPenalty (taken : Bool) (off : Byte) (s : State) (_ : Entry) : Nat :=
  if taken then (if page (branchTarget off s) != page s.pc then 2 else 1) else 0

/-- No penalty. -/
def noPenalty (_ : Entry) : Nat := 0

/-! ## The shapes of instruction -/

/-- Run an effect under the instruction's table entry: `cycles_pending` ends at the base count plus the
penalty (R112, R282). A term outside the table is refused. -/
def run (i : Instr) (penalty : Entry → Nat) (effect : State → State) (s : State) : Result :=
  match entryOf i with
  | some e => .next ((effect s).setCyclesPending (e.cycles + penalty e))
  | none => .refused .notInTable

/-- Read class: the handler gets the operand value (R115). -/
def runRead (i : Instr) (o : Operand) (handler : Byte → State → State) (s : State) : Result :=
  run i (s.crossPenalty o) (fun s => handler (s.operand o).1 (s.operand o).2) s

/-- Store class: one write at `ea`, which is not read (R115, R143). -/
def runStore (i : Instr) (o : Operand) (reg : State → Byte) (s : State) : Result :=
  run i noPenalty (fun s => (s.place o).2.writeBack (s.place o).1 (reg s)) s

/-- RMW class: `f` gets the operand value and the carry and gives the result; it is written back to
where the operand came from, then `Z`, `N` are set from it (R115, R131, R188). -/
def State.modify (o : Operand) (f : Byte → Bool → Byte) (s : State) : State :=
  let v := f (s.operand o).1 (s.flag .c)
  ((s.operand o).2.writeBack (s.place o).1 v).setZN v

/-- Shifts and rotates: as `modify`, and `C` takes the bit shifted out (R188). -/
def State.shift (o : Operand) (f : Byte → Bool → Byte) (out : Byte → Bool) (s : State) : State :=
  (s.modify o f).setFlag .c (out (s.operand o).1)

/-- `Branch(cond)` (R200). -/
def runBranch (i : Instr) (off : Byte) (taken : Bool) (s : State) : Result :=
  run i (s.branchPenalty taken off) (fun s => if taken then s.setPc (branchTarget off s) else s) s

/-- Implied and Stack instructions: no operand (R128, R129). -/
def runPlain (i : Instr) (effect : State → State) (s : State) : Result := run i noPenalty effect s

end Sys2Proof.Machine
end

