-- ==== Sys2Proof/Machine/Arithmetic.lean ====
section
/-! DEFINITION. Add, subtract, compare, increment, decrement (R160 to R171): binary whatever `D` holds (R2). -/

namespace Sys2Proof.Machine

/-- ADC (R160). -/
def execAdc (o : Operand) (s : State) : Result :=
  runRead (.adc o) o (fun v s => s.addWithCarry v) s

/-- SBC (R161): ADC of the operand's complement. -/
def execSbc (o : Operand) (s : State) : Result :=
  runRead (.sbc o) o (fun v s => s.addWithCarry (v ^^^ 0xFF#8)) s

/-- CMP (R162): `A` is not written. -/
def execCmp (o : Operand) (s : State) : Result :=
  runRead (.cmp o) o (fun v s => s.compare s.a v) s

/-- CPX (R163). -/
def execCpx (o : Operand) (s : State) : Result :=
  runRead (.cpx o) o (fun v s => s.compare s.x v) s

/-- CPY (R164). -/
def execCpy (o : Operand) (s : State) : Result :=
  runRead (.cpy o) o (fun v s => s.compare s.y v) s

/-- INC (R165): one read, one write, `Z` and `N` from the result. -/
def execInc (o : Operand) (s : State) : Result :=
  run (.inc o) noPenalty (fun s => s.modify o (fun m _ => m + 1#8)) s

/-- DEC (R166). -/
def execDec (o : Operand) (s : State) : Result :=
  run (.dec o) noPenalty (fun s => s.modify o (fun m _ => m - 1#8)) s

/-- INX (R167): `X <- u8(X + 1); SetZN(X)`. -/
def execInx (s : State) : Result :=
  runPlain .inx (fun s => (s.setX (s.x + 1#8)).setZN (s.x + 1#8)) s

/-- INY (R168). -/
def execIny (s : State) : Result :=
  runPlain .iny (fun s => (s.setY (s.y + 1#8)).setZN (s.y + 1#8)) s

/-- DEX (R169): `X <- u8(X - 1); SetZN(X)`. -/
def execDex (s : State) : Result :=
  runPlain .dex (fun s => (s.setX (s.x - 1#8)).setZN (s.x - 1#8)) s

/-- DEY (R170). -/
def execDey (s : State) : Result :=
  runPlain .dey (fun s => (s.setY (s.y - 1#8)).setZN (s.y - 1#8)) s

end Sys2Proof.Machine
end

