-- ==== Sys2Proof/Machine/ControlFlow.lean ====
section
/-! DEFINITION. Branches, jumps, subroutine call and return (R200 to R214). `PC` is the address after the instruction when a meaning starts. -/

namespace Sys2Proof.Machine

/-- BCC (R201): taken iff `C = 0`. -/
def execBcc (off : Byte) (s : State) : Result := runBranch (.bcc off) off (!s.flag .c) s

/-- BCS (R202): taken iff `C = 1`. -/
def execBcs (off : Byte) (s : State) : Result := runBranch (.bcs off) off (s.flag .c) s

/-- BEQ (R203): taken iff `Z = 1`. -/
def execBeq (off : Byte) (s : State) : Result := runBranch (.beq off) off (s.flag .z) s

/-- BMI (R204): taken iff `N = 1`. -/
def execBmi (off : Byte) (s : State) : Result := runBranch (.bmi off) off (s.flag .n) s

/-- BNE (R205): taken iff `Z = 0`. -/
def execBne (off : Byte) (s : State) : Result := runBranch (.bne off) off (!s.flag .z) s

/-- BPL (R206): taken iff `N = 0`. -/
def execBpl (off : Byte) (s : State) : Result := runBranch (.bpl off) off (!s.flag .n) s

/-- BVC (R207): taken iff `V = 0`. -/
def execBvc (off : Byte) (s : State) : Result := runBranch (.bvc off) off (!s.flag .v) s

/-- BVS (R208): taken iff `V = 1`. -/
def execBvs (off : Byte) (s : State) : Result := runBranch (.bvs off) off (s.flag .v) s

/-- JMP (R209): `PC <- ea`; the byte at `ea` is not read. -/
def execJmp (o : Operand) (s : State) : Result :=
  run (.jmp o) noPenalty (fun s => (s.place o).2.jumpTo (s.place o).1) s

/-- JSR (R211): push `PC - 1` high byte first, then `PC <- ea`. -/
def execJsr (o : Operand) (s : State) : Result :=
  run (.jsr o) noPenalty
    (fun s => ((s.place o).2.pushWord ((s.place o).2.pc - 1#16)).jumpTo (s.place o).1) s

/-- RTS (R212): pull low then high, `PC` is the pulled word plus 1. -/
def execRts (s : State) : Result :=
  runPlain .rts (fun s => s.pullWord.2.setPc (s.pullWord.1 + 1#16)) s

end Sys2Proof.Machine
end

