-- ==== Sys2Proof/Machine/LoadStore.lean ====
section
/-! DEFINITION. Load, store and register transfer (R140 to R151). -/

namespace Sys2Proof.Machine

/-- LDA (R140): `A <- opnd; SetZN(A)`. -/
def execLda (o : Operand) (s : State) : Result :=
  runRead (.lda o) o (fun v s => (s.setA v).setZN v) s

/-- LDX (R141): `X <- opnd; SetZN(X)`. -/
def execLdx (o : Operand) (s : State) : Result :=
  runRead (.ldx o) o (fun v s => (s.setX v).setZN v) s

/-- LDY (R142): `Y <- opnd; SetZN(Y)`. -/
def execLdy (o : Operand) (s : State) : Result :=
  runRead (.ldy o) o (fun v s => (s.setY v).setZN v) s

/-- STA (R143): `MemWrite(ea, 1, A)`. -/
def execSta (o : Operand) (s : State) : Result := runStore (.sta o) o State.a s

/-- STX (R144): `MemWrite(ea, 1, X)`. -/
def execStx (o : Operand) (s : State) : Result := runStore (.stx o) o State.x s

/-- STY (R145): `MemWrite(ea, 1, Y)`. -/
def execSty (o : Operand) (s : State) : Result := runStore (.sty o) o State.y s

/-- TAX (R146): `X <- A; SetZN(X)`. -/
def execTax (s : State) : Result := runPlain .tax (fun s => (s.setX s.a).setZN s.a) s

/-- TAY (R147): `Y <- A; SetZN(Y)`. -/
def execTay (s : State) : Result := runPlain .tay (fun s => (s.setY s.a).setZN s.a) s

/-- TXA (R148): `A <- X; SetZN(A)`. -/
def execTxa (s : State) : Result := runPlain .txa (fun s => (s.setA s.x).setZN s.x) s

/-- TYA (R149): `A <- Y; SetZN(A)`. -/
def execTya (s : State) : Result := runPlain .tya (fun s => (s.setA s.y).setZN s.y) s

/-- TSX (R150): `X <- S; SetZN(X)`. -/
def execTsx (s : State) : Result := runPlain .tsx (fun s => (s.setX s.sp).setZN s.sp) s

/-- TXS (R151): `S <- X`, no flag. -/
def execTxs (s : State) : Result := runPlain .txs (fun s => s.setSp s.x) s

end Sys2Proof.Machine
end

