-- ==== Sys2Proof/Machine/LogicShift.lean ====
section
/-! DEFINITION. Logic, bit test, shifts and rotates (R180 to R188). -/

namespace Sys2Proof.Machine

/-- AND (R180): `A <- A & opnd; SetZN(A)`. -/
def execAnd (o : Operand) (s : State) : Result :=
  runRead (.and o) o (fun v s => (s.setA (s.a &&& v)).setZN (s.a &&& v)) s

/-- ORA (R181): `A <- A | opnd; SetZN(A)`. -/
def execOra (o : Operand) (s : State) : Result :=
  runRead (.ora o) o (fun v s => (s.setA (s.a ||| v)).setZN (s.a ||| v)) s

/-- EOR (R182): `A <- A ^ opnd; SetZN(A)`. -/
def execEor (o : Operand) (s : State) : Result :=
  runRead (.eor o) o (fun v s => (s.setA (s.a ^^^ v)).setZN (s.a ^^^ v)) s

/-- BIT (R183): flags only. -/
def execBit (o : Operand) (s : State) : Result :=
  runRead (.bit o) o (fun v s => s.bitTest v) s

/-- ASL (R184): `C` takes bit 7. -/
def execAsl (o : Operand) (s : State) : Result :=
  run (.asl o) noPenalty (fun s => s.shift o (fun m _ => aslByte m) (fun m => m.getLsbD 7)) s

/-- LSR (R185): `C` takes bit 0. -/
def execLsr (o : Operand) (s : State) : Result :=
  run (.lsr o) noPenalty (fun s => s.shift o (fun m _ => lsrByte m) (fun m => m.getLsbD 0)) s

/-- ROL (R186): the carry before comes in at bit 0, `C` takes bit 7. -/
def execRol (o : Operand) (s : State) : Result :=
  run (.rol o) noPenalty (fun s => s.shift o rolByte (fun m => m.getLsbD 7)) s

/-- ROR (R187): the carry before comes in at bit 7, `C` takes bit 0. -/
def execRor (o : Operand) (s : State) : Result :=
  run (.ror o) noPenalty (fun s => s.shift o rorByte (fun m => m.getLsbD 0)) s

end Sys2Proof.Machine
end

