-- ==== Sys2Proof/Machine/StackSystem.lean ====
section
/-! DEFINITION. Stack, flag, no-operation and system instructions, and the unassigned opcodes (R220 to R240). -/

namespace Sys2Proof.Machine

/-- PHA (R220): `Push(A)`. -/
def execPha (s : State) : Result := runPlain .pha (fun s => s.push s.a) s

/-- PHP (R221): push `P` with bits 4 and 5 set; `P` itself stays. -/
def execPhp (s : State) : Result := runPlain .php (fun s => s.push (pushedStatus s.p)) s

/-- PLA (R222): `A <- Pull(); SetZN(A)`. -/
def execPla (s : State) : Result :=
  runPlain .pla (fun s => (s.pull.2.setA s.pull.1).setZN s.pull.1) s

/-- PLP (R223): `P` is the pulled byte with bits 4 and 5 cleared. -/
def execPlp (s : State) : Result := runPlain .plp (fun s => s.pull.2.setP (maskedStatus s.pull.1)) s

/-- CLC (R224). -/
def execClc (s : State) : Result := runPlain .clc (fun s => s.setFlag .c false) s

/-- SEC (R225). -/
def execSec (s : State) : Result := runPlain .sec (fun s => s.setFlag .c true) s

/-- CLI (R226). -/
def execCli (s : State) : Result := runPlain .cli (fun s => s.setFlag .i false) s

/-- SEI (R227). -/
def execSei (s : State) : Result := runPlain .sei (fun s => s.setFlag .i true) s

/-- CLD (R228). -/
def execCld (s : State) : Result := runPlain .cld (fun s => s.setFlag .d false) s

/-- SED (R229). -/
def execSed (s : State) : Result := runPlain .sed (fun s => s.setFlag .d true) s

/-- CLV (R230). -/
def execClv (s : State) : Result := runPlain .clv (fun s => s.setFlag .v false) s

/-- NOP (R235): nothing beyond its cycles. -/
def execNop (s : State) : Result := runPlain .nop (fun s => s) s

/-- BRK (R236): the only trap. -/
def execBrk (s : State) : Result := runPlain .brk State.takeBreak s

/-- RTI (R237): the return from it. -/
def execRti (s : State) : Result := runPlain .rti State.returnFromBreak s

/-- An unassigned opcode (R240): the no-operation handler. -/
def execUnassigned (op : Byte) (s : State) : Result := runPlain (.unassigned op) (fun s => s) s

end Sys2Proof.Machine
end

