-- ==== Sys2Proof/Machine/Cycle.lean ====
section
/-! DEFINITION. The instruction cycle: fetch, execute, the test loop's poll (R110 to R112, R262); the turns of the agents (R280). -/

namespace Sys2Proof.Machine

/-- One instruction byte: the byte at `PC`, and `PC` advanced by one (R26, R111, R113). -/
def State.fetchByte (s : State) : Byte × State :=
  ((s.busRead s.pc).1, (s.busRead s.pc).2.setPc (s.pc + 1#16))

/-- `n` more instruction bytes, in order. -/
def State.fetchBytes : Nat → State → List Byte × State
  | 0, s => ([], s)
  | n + 1, s => (s.fetchByte.1 :: (State.fetchBytes n s.fetchByte.2).1, (State.fetchBytes n s.fetchByte.2).2)

/-- `Decode`'s read: the opcode byte; the address latch is left at the address after it (R111). -/
def State.fetchOpcode (s : State) : Byte × State :=
  (s.fetchByte.1, s.fetchByte.2.setAddrLatch (s.pc + 1#16))

/-- All bytes of the instruction at `PC`: the opcode, then as many as its entry's mode has (R92, R110). -/
def State.fetch (s : State) : List Byte × State :=
  let op := s.fetchOpcode
  let rest := op.2.fetchBytes (entryAt op.1).mode.operandBytes
  (op.1 :: rest.1, rest.2)

/-- The gate is closed as the first action of an instruction (R110, R284). -/
def State.closeGate (s : State) : State := s.setReady false

/-- `InstructionStep` (R110), and after it the poll of the test loop (R262). The list of bytes that
`fetch` gives always decodes; the two refusals say so by name. -/
def instructionStep (s : State) : Result :=
  match decode s.closeGate.fetch.1 with
  | .error _ => .refused .notInTable
  | .ok (i, _) =>
    match exec i s.closeGate.fetch.2 with
    | .next t => .next t.pollTest
    | .fault f => .fault f
    | .refused r => .refused r

/-- The CPU's turn: an instruction if the gate is open, else its loop polls the gate and nothing happens
(R284, R287). -/
def State.cpuTurn (s : State) : Result := if s.ready then instructionStep s else .next s

/-- One turn of an agent (R280): the CPU, the Clock (R281), the host (R286, R272), the video unit (R70). -/
def State.takeInput (i : Input) (s : State) : Result :=
  match i with
  | .cpu => s.cpuTurn
  | .tick => .next s.tick
  | .powerOff => .next (s.setPoweredOn false)
  | .boot => .next s.boot
  | .ppuRead a => .next (s.ppuRead a).2

/-- Store one byte where a fetch at bus address `a` finds it. -/
def State.plant (a : Addr) (v : Byte) (s : State) : State :=
  s.setRam (Memory.set s.ram (if isRam a then ramIndex a else a.toNat) v)

/-- Make FlatMem the first read interceptor, where it is not. -/
def State.serveFlat (s : State) : State :=
  if s.platform.readInterceptors.head? = some .flatMem then s
  else s.setPlatform { s.platform with readInterceptors := .flatMem :: s.platform.readInterceptors }

/-- Power on, gate open, no turn laid down, test loop not ended. -/
def State.enable (s : State) : State :=
  (((s.setPoweredOn true).setReady true).setInputs []).setRunEnded false

/-- The three bytes of an instruction word planted at `PC`. -/
def State.plantWord (nbits w : Nat) (s : State) : State :=
  ((s.plant s.pc (tableByte nbits w 0)).plant (s.pc + 1#16) (tableByte nbits w 1)).plant (s.pc + 2#16)
    (tableByte nbits w 2)

end Sys2Proof.Machine
end

