-- ==== Sys2Proof/Machine/Step.lean ====
section
/-! DEFINITION. One step of the machine: the next agent's turn; when no turn is laid down, an instruction if the gate is open, else a tick of the Clock (R280, R284, R287 to R289). -/

namespace Sys2Proof.Machine

/-- The machine's step. -/
def step (s : State) : Host.Outcome State Fault Refusal :=
  if s.runEnded then .fault .testRunEnded
  else if !s.poweredOn then .fault .poweredOff
  else match s.inputs with
    | i :: rest => (s.setInputs rest).takeInput i
    | [] => if s.ready then instructionStep s else .next s.tick

/-- `s` with an instruction word, its first byte in bits 7..0, stored where the next step fetches, and
that step enabled. The word is loaded at 0x8000 and `PC` set to it, because `PC` after `Boot` comes from
the loaded vector (log entry 12). -/
def State.withFetchWord (s : State) (nbits w : Nat) : State :=
  (((s.setPc 0x8000#16).enable).serveFlat).plantWord nbits w

end Sys2Proof.Machine
end

