-- ==== Sys2Proof/Safety.lean ====
section
/-! DEFINITION. The terms claims are stated in: what a step may change, which registers, flags and cells an instruction writes, and the invariant of every run. -/

namespace Sys2Proof.Machine

/-- The 8-bit registers other than `P` (R20). -/
inductive Reg where
  | a | x | y | sp
deriving DecidableEq, Repr

/-- The value of a register. -/
def State.reg : Reg → State → Byte
  | .a, s => s.a
  | .x, s => s.x
  | .y, s => s.y
  | .sp, s => s.sp

/-- `A`, `X`, `Y`, `S` are as before, those listed apart. -/
def State.keepsRegs (except : List Reg) (s t : State) : Prop :=
  ∀ r, r ∉ except → t.reg r = s.reg r

/-- The eight bits of `P` are as before, those listed apart. -/
def State.keepsFlags (except : List Flag) (s t : State) : Prop :=
  ∀ f, f ∉ except → t.flag f = s.flag f

/-- Every byte of the backing array reads as before, the cells listed apart. -/
def State.keepsCells (except : List Nat) (s t : State) : Prop :=
  ∀ k, k ∉ except → Memory.get t.ram k = Memory.get s.ram k

/-- The launch parameters, the gate's flag and phase, the run loop's two flags and the turns left of
all agents are as before. (`cyclesPending` is every instruction's own, R112.) -/
def State.keepsRun (s t : State) : Prop :=
  t.platform = s.platform ∧ t.ready = s.ready ∧ t.tickCount = s.tickCount ∧
    t.poweredOn = s.poweredOn ∧ t.runEnded = s.runEnded ∧ t.inputs = s.inputs

/-- The latches and the transcript are those of `r`: no bus access beyond the ones that led to `r`. -/
def State.busAs (r t : State) : Prop :=
  t.addrLatch = r.addrLatch ∧ t.dataLatch = r.dataLatch ∧ t.transcript = r.transcript

/-- The frame of an instruction: what it leaves as it was. -/
def State.keepsBut (regs : List Reg) (flags : List Flag) (cells : List Nat) (s t : State) : Prop :=
  s.keepsRegs regs t ∧ s.keepsFlags flags t ∧ s.keepsCells cells t ∧ s.keepsRun t

/-- `Z` and `N` are those of the byte `v` (R29). -/
def State.znOf (v : Byte) (t : State) : Prop :=
  (t.flag .z = true ↔ v = 0#8) ∧ t.flag .n = v.getLsbD 7

/-- The stack cell at stack pointer `sp` (R24). -/
def stackCell (sp : Byte) : Nat := 0x100 + sp.toNat

/-- The cell a place is written back to, if it is one (R131). -/
def State.placeCells (o : Operand) (s : State) : List Nat :=
  match (s.place o).1 with
  | .mem ea _ => (s.storeIndex ea).toList
  | .acc | .imm _ _ => []

/-- `t` is what writing `v` back to the operand's place leaves (R131): `A` in Accumulator mode, else the
cell at `ea`; `Z`, `N` from `v`; the bus as after that write; the listed flags apart, nothing else. -/
def State.wroteBack (o : Operand) (v : Byte) (flags : List Flag) (s t : State) : Prop :=
  s.keepsBut (if o = .acc then [.a] else []) flags (s.placeCells o) t ∧ t.pc = s.pc ∧ t.znOf v ∧
    (o = .acc → t.a = v) ∧
    (∀ k, k ∈ s.placeCells o → Memory.get t.ram k = v) ∧
    ((s.operand o).2.writeBack (s.place o).1 v).busAs t

/-- The forms an instruction has and the opcode of each, and that it has no other form: the "Operands"
and "Encoding" lines of its rule. -/
def EncodedAs (f : Operand → Instr) (l : List (Form × Byte)) : Prop :=
  ∀ o : Operand,
    match l.lookup o.form with
    | some b => (f o).wellFormed = true ∧ encode (f o) = b :: o.bytes
    | none => (f o).wellFormed = false ∧ encode (f o) = []

/-- The cells of the backing array an instruction stores to (R115, R220, R221, R211, R236). -/
def cellsWritten (s : State) : Instr → List Nat
  | .sta o | .stx o | .sty o | .inc o | .dec o => s.placeCells o
  | .asl o | .lsr o | .rol o | .ror o => s.placeCells o
  | .pha | .php => [stackCell s.sp]
  | .jsr _ => [stackCell s.sp, stackCell (s.sp - 1#8)]
  | .brk => [stackCell s.sp, stackCell (s.sp - 1#8), stackCell (s.sp - 2#8)]
  | _ => []

/-- The registers among `A`, `X`, `Y`, `S` an instruction writes ("Written by" of R21 to R24). -/
def regsWritten : Instr → List Reg
  | .adc _ | .sbc _ | .and _ | .ora _ | .eor _ | .lda _ | .txa | .tya => [.a]
  | .asl .acc | .lsr .acc | .rol .acc | .ror .acc => [.a]
  | .pla => [.a, .sp]
  | .ldx _ | .tax | .tsx | .inx | .dex => [.x]
  | .ldy _ | .tay | .iny | .dey => [.y]
  | .pha | .php | .plp | .jsr _ | .rts | .rti | .brk | .txs => [.sp]
  | _ => []

/-- The flags an instruction writes (the table of R28). -/
def flagsWritten : Instr → List Flag
  | .adc _ | .sbc _ => [.c, .z, .v, .n]
  | .cmp _ | .cpx _ | .cpy _ | .asl _ | .lsr _ | .rol _ | .ror _ => [.c, .z, .n]
  | .and _ | .ora _ | .eor _ | .inc _ | .dec _ | .inx | .iny | .dex | .dey => [.z, .n]
  | .lda _ | .ldx _ | .ldy _ | .tax | .tay | .txa | .tya | .tsx | .pla => [.z, .n]
  | .bit _ => [.z, .v, .n]
  | .clc | .sec => [.c]
  | .cli | .sei | .brk => [.i]
  | .cld | .sed => [.d]
  | .clv => [.v]
  | .plp | .rti => [.c, .z, .i, .d, .b, .u, .v, .n]
  | _ => []

/-- The instruction's handler writes `PC` (R26). -/
def writesPc : Instr → Bool
  | .bcc _ | .bcs _ | .beq _ | .bmi _ | .bne _ | .bpl _ | .bvc _ | .bvs _ => true
  | .jmp _ | .jsr _ | .rts | .rti | .brk => true
  | _ => false

/-- The launch parameters are legal: a divisor of at least 1 (R6), and the CPU's gate callback
registered exactly once (R271, R281). -/
def Platform.wf (p : Platform) : Bool :=
  1 ≤ p.tickDivisor && p.tickCallbacks.count .gate == 1

/-- What holds in every state of every run: the array in canonical form; legal launch parameters; the
tick phase below the divisor (R42); the countdown within an instruction's cost (R5, R282); and the gate
open exactly when nothing is pending (R283, R284). -/
def State.inv (s : State) : Bool :=
  Memory.wf s.ram && Platform.wf s.platform && s.tickCount < s.platform.tickDivisor &&
    s.cyclesPending ≤ 7 && s.ready == (s.cyclesPending == 0)

/-- The run goes on: the power is on and the test loop has not ended (R286, R287). -/
def State.running (s : State) : Prop := s.runEnded = false ∧ s.poweredOn = true

/-- The next step is an `InstructionStep` (R284): the gate is open, and the CPU's turn is next. -/
def State.cpuEnabled (s : State) : Prop :=
  s.running ∧ s.ready = true ∧ (s.inputs = [] ∨ s.inputs.head? = some .cpu)

/-- The turns left after the next one. -/
def State.turnTaken (s : State) : State := s.setInputs s.inputs.tail

/-- Only the gate's own state may differ. -/
def State.sameButGate (s t : State) : Prop :=
  s = ((t.setCyclesPending s.cyclesPending).setReady s.ready).setTickCount s.tickCount

/-- What a read interceptor answers at `a`, with the array `m` and the exchanges so far (R62, R74). -/
def readerAnswer (f : ReadInterceptor) (a : Addr) (m : Memory) (sofar : List Event) : Option Byte :=
  match f with
  | .flatMem => some (Memory.get m a.toNat)
  | .fixed cells => fixedAnswer cells a
  | .external id => Config.readAnswer id sofar a

/-- The transcript's record of a call of a read interceptor that gave `r`. -/
def readerCall (f : ReadInterceptor) (a : Addr) (r : Option Byte) : List Event :=
  match f with
  | .external id => [.readAsked id a r]
  | .flatMem | .fixed _ => []

/-- What an interceptor of the PPU channel answers at `a` (R70). -/
def ppuReaderAnswer (f : PpuInterceptor) (a : Addr) (sofar : List Event) : Option Byte :=
  match f with
  | .fixed cells => fixedAnswer cells a
  | .external id => Config.ppuAnswer id sofar a

/-- The transcript's record of a call of a PPU read interceptor that gave `r`. -/
def ppuReaderCall (f : PpuInterceptor) (a : Addr) (r : Option Byte) : List Event :=
  match f with
  | .external id => [.ppuAsked id a r]
  | .fixed _ => []

end Sys2Proof.Machine
end

