-- ==== Sys2Proof/Certificates/Slice0/Obligations.lean ====
section
/-! DEFINITION. The statements for the provers. Each docstring names the rules of the spec it formalises. -/

open Sys2Proof Sys2Proof.Machine

/-! ## Encoding -/

/-- Decoding the bytes of a well-formed instruction, whatever bytes follow, gives it back (R90 to R97). -/
def Obligations.DecodeOfEncodeIsTheInstruction : Prop :=
  ∀ (i : Instr) (rest : List Byte), i.wellFormed = true → decode (encode i ++ rest) = .ok (i, rest)

/-- The other direction: whatever the decoder gives is well formed and encodes back to the bytes it was
read from, so no byte string has two readings and no operand byte is dropped (R90 to R97). -/
def Obligations.DecodedInstructionEncodesBack : Prop :=
  ∀ (bs rest : List Byte) (i : Instr), decode bs = .ok (i, rest) →
    i.wellFormed = true ∧ bs = encode i ++ rest

/-- R100, R96: with two bytes behind it every opcode byte decodes, and what it decodes to executes; it
decodes to an unassigned instruction exactly for the 105 bytes of R96, which are one byte long. That an
unassigned opcode is one byte is the spec's own choice (D2, U5), presumed in log entry 10. -/
def Obligations.EveryByteDecodesAndExecutes : Prop :=
  unassignedBytes.length = 105 ∧ unassignedBytes.Nodup ∧
  ∀ b b1 b2 : Byte,
    (∃ i rest, decode [b, b1, b2] = .ok (i, rest) ∧ ∀ s : State, ∃ t, exec i s = .next t) ∧
    (b ∈ unassignedBytes ↔ decode [b, b1, b2] = .ok (.unassigned b, [b1, b2]))

/-- The examples of R101, one for every mode, as bytes. -/
def Obligations.ExampleBytesDecode : Prop :=
  decode [0x0A] = .ok (.asl .acc, []) ∧
  decode [0xA9, 0x10] = .ok (.lda (.imm 0x10), []) ∧
  decode [0x18] = .ok (.clc, []) ∧
  decode [0x48] = .ok (.pha, []) ∧
  decode [0xA5, 0x10] = .ok (.lda (.zp 0x10), []) ∧
  decode [0xB5, 0x10] = .ok (.lda (.zpx 0x10), []) ∧
  decode [0xB6, 0x10] = .ok (.ldx (.zpy 0x10), []) ∧
  decode [0x20, 0x34, 0x12] = .ok (.jsr (.abs 0x1234), []) ∧
  decode [0xBD, 0x34, 0x12] = .ok (.lda (.abx 0x1234), []) ∧
  decode [0xB9, 0x34, 0x12] = .ok (.lda (.aby 0x1234), []) ∧
  decode [0x6C, 0x34, 0x12] = .ok (.jmp (.ind 0x1234), []) ∧
  decode [0xA1, 0x10] = .ok (.lda (.izx 0x10), []) ∧
  decode [0xB1, 0x10] = .ok (.lda (.izy 0x10), []) ∧
  decode [0xD0, 0xFB] = .ok (.bne 0xFB, [])

/-- The cycle cost of every instruction with an operand form: the base counts of R95, and one more for a
read-class instruction in Absolute+X, Absolute+Y or Indirect-Indexed whose `ea` lies in another page than
the base (R130). -/
def Obligations.CycleCostsOfOperandForms : Prop :=
  ∀ (o : Operand) (s t : State),
    let cross := if (s.place o).1.cross = true then 1 else 0
    (∀ i : Instr,
      i ∈ [.lda o, .ldx o, .ldy o, .adc o, .sbc o, .and o, .ora o, .eor o, .bit o, .cmp o, .cpx o, .cpy o] →
      exec i s = .next t →
      t.cyclesPending =
        (match o with
        | .imm _ => 2 | .zp _ => 3 | .zpx _ => 4 | .zpy _ => 4 | .abs _ => 4
        | .abx _ => 4 + cross | .aby _ => 4 + cross | .izx _ => 6 | .izy _ => 5 + cross
        | _ => 0)) ∧
    (∀ i : Instr, i ∈ [.sta o, .stx o, .sty o] → exec i s = .next t →
      t.cyclesPending =
        (match o with
        | .zp _ => 3 | .zpx _ => 4 | .zpy _ => 4 | .abs _ => 4 | .abx _ => 5 | .aby _ => 5
        | .izx _ => 6 | .izy _ => 6
        | _ => 0)) ∧
    (∀ i : Instr, i ∈ [.asl o, .lsr o, .rol o, .ror o, .inc o, .dec o] → exec i s = .next t →
      t.cyclesPending =
        (match o with
        | .acc => 2 | .zp _ => 5 | .zpx _ => 6 | .abs _ => 6 | .abx _ => 7
        | _ => 0))

/-! ## The bus and the host's operations -/

/-- R55, R56: below 0x2000 a read shows the cell `addr mod 0x0800` and a write stores there and nowhere else,
so all four aliases show the same byte; no interceptor is consulted. -/
def Obligations.RamIsMirroredAndReadsBack : Prop :=
  ∀ (a b : Addr) (v : Byte) (s : State), a.toNat < 0x2000 → b.toNat < 0x2000 →
    (s.busRead b).1 = Memory.get s.ram (b.toNat % 0x800) ∧
    (s.busRead b).2.transcript = s.transcript ∧
    (s.busWrite a v).transcript = s.transcript ∧
    (∀ k, Memory.get (s.busWrite a v).ram k =
      (if k = a.toNat % 0x800 then v else Memory.get s.ram k)) ∧
    ((s.busWrite a v).busRead b).1 =
      (if a.toNat % 0x800 = b.toNat % 0x800 then v else (s.busRead b).1)

/-- R58: a read below 0x2000 shows the RAM cell. From 0x2000 up the interceptors are called in registration
order: `pre` all decline, `f` answers and its byte is the result, and those after `f` are not called; if
all decline, the result is the data latch. The two latches follow, and nothing else changes but the
transcript of the calls. -/
def Obligations.FirstAnsweringInterceptorWins : Prop :=
  ∀ (a : Addr) (s : State),
    let after := fun (l : List ReadInterceptor) =>
      (l.flatMap fun g => readerCall g a none).reverse ++ s.transcript
    let declines := fun (pre : List ReadInterceptor) =>
      ∀ l g r, pre = l ++ g :: r → readerAnswer g a s.ram (after l) = none
    let reads := fun (v : Byte) (calls : List Event) =>
      s.busRead a = (v, ((s.setTranscript calls).setAddrLatch a).setDataLatch v)
    (a.toNat < 0x2000 → reads (Memory.get s.ram (a.toNat % 0x800)) s.transcript) ∧
    (0x2000 ≤ a.toNat → ∀ pre f post v, s.platform.readInterceptors = pre ++ f :: post →
      declines pre → readerAnswer f a s.ram (after pre) = some v →
      reads v (readerCall f a (some v) ++ after pre)) ∧
    (0x2000 ≤ a.toNat → declines s.platform.readInterceptors →
      reads s.dataLatch (after s.platform.readInterceptors))

/-- R59: a read nobody answers returns the data latch, which holds the byte of the access before it,
whether that was a read or a write; a write nobody owns changes no cell. -/
def Obligations.OpenBusReturnsTheLastByte : Prop :=
  ∀ (a b : Addr) (v : Byte) (s : State), 0x2000 ≤ a.toNat →
    (s.platform.readInterceptors = [] → (s.answer a).1 = none) ∧
    ((s.answer a).1 = none → (s.busRead a).1 = s.dataLatch) ∧
    (((s.busWrite b v).answer a).1 = none → ((s.busWrite b v).busRead a).1 = v) ∧
    (((s.busRead b).2.answer a).1 = none → ((s.busRead b).2.busRead a).1 = (s.busRead b).1) ∧
    (.flatMem ∉ s.platform.writeInterceptors → (s.busWrite a v).ram = s.ram)

/-- R60: a write from 0x2000 up calls every external write interceptor, in registration order, and changes
no cell of the array unless FlatMem is among them; below 0x2000 it calls none and writes the cell
`addr mod 0x0800`. Both latches take it. -/
def Obligations.WriteCallsEveryInterceptor : Prop :=
  ∀ (a : Addr) (v : Byte) (s : State),
    let calls := s.platform.writeInterceptors.filterMap fun g =>
      match g with
      | .external id => some (Event.writeTold id a v)
      | .flatMem => none
    (0x2000 ≤ a.toNat → (s.busWrite a v).transcript = calls.reverse ++ s.transcript) ∧
    (0x2000 ≤ a.toNat → .flatMem ∉ s.platform.writeInterceptors → (s.busWrite a v).ram = s.ram) ∧
    (a.toNat < 0x2000 → (s.busWrite a v).transcript = s.transcript) ∧
    (a.toNat < 0x2000 → ∀ k, Memory.get (s.busWrite a v).ram k =
      (if k = a.toNat % 0x800 then v else Memory.get s.ram k)) ∧
    (s.busWrite a v).addrLatch = a ∧ (s.busWrite a v).dataLatch = v

/-- R74: with FlatMem alone on the bus the machine is a flat byte memory, the addresses 0x0800 to 0x1FFF
being aliases of 0x0000 to 0x07FF, and what `load` places from 0x2000 up is what a read there shows. -/
def Obligations.FlatMemIsAFlatMemory : Prop :=
  ∀ (a b : Addr) (v : Byte) (s : State),
    s.platform.readInterceptors = [.flatMem] → s.platform.writeInterceptors = [.flatMem] →
    let cell := fun (x : Addr) => if x.toNat < 0x2000 then x.toNat % 0x800 else x.toNat
    (s.busRead a).1 = Memory.get s.ram (cell a) ∧
    ((s.busWrite a v).busRead b).1 = (if cell a = cell b then v else (s.busRead b).1) ∧
    (∀ k, k ≠ cell a → Memory.get (s.busWrite a v).ram k = Memory.get s.ram k) ∧
    (∀ data, 0x2000 ≤ a.toNat → a.toNat + data.length ≤ 65536 → ∃ t, load a data s = .next t ∧
      ∀ n (h : n < data.length), (t.busRead (BitVec.ofNat 16 (a.toNat + n))).1 = data[n])

/-- R70: a PPU read is isolated from the CPU's side: it changes nothing but the transcript, where the calls
and the reply stand. It asks the channel's own list in registration order, and the first answer wins; if
all decline, the reply is some byte. -/
def Obligations.PpuChannelIsIsolated : Prop :=
  ∀ (a : Addr) (s : State),
    let after := fun (l : List PpuInterceptor) =>
      (l.flatMap fun g => ppuReaderCall g a none).reverse ++ s.transcript
    let declines := fun (pre : List PpuInterceptor) =>
      ∀ l g r, pre = l ++ g :: r → ppuReaderAnswer g a (after l) = none
    let replies := fun (v : Byte) (calls : List Event) =>
      s.ppuRead a = (v, s.setTranscript (.ppuReplied a v :: calls))
    (∀ pre f post v, s.platform.ppuReadInterceptors = pre ++ f :: post → declines pre →
      ppuReaderAnswer f a (after pre) = some v → replies v (ppuReaderCall f a (some v) ++ after pre)) ∧
    (declines s.platform.ppuReadInterceptors →
      ∃ v, replies v (after s.platform.ppuReadInterceptors))

/-- R67: `load` copies its bytes to consecutive cells of the array and changes no other cell, no latch, no
register; past index 65535 it is refused. -/
def Obligations.LoadCopiesBytesIntoTheArray : Prop :=
  ∀ (start : Addr) (data : List Byte) (s : State),
    (start.toNat + data.length ≤ 65536 → ∃ m, load start data s = .next (s.setRam m) ∧
      (∀ n (h : n < data.length), Memory.get m (start.toNat + n) = data[n]) ∧
      (∀ k, k < start.toNat ∨ start.toNat + data.length ≤ k → Memory.get m k = Memory.get s.ram k)) ∧
    (65536 < start.toNat + data.length → load start data s = .refused .loadOverrun)

/-- R272: `Boot` reads 0xFFFC then 0xFFFD, sets `PC` to the little-endian word and `S` to 0xFF, and changes
nothing else but the latches and the transcript of those two reads. -/
def Obligations.BootSetsPcFromTheVectorAndS : Prop :=
  ∀ s : State,
    let lo := s.busRead 0xFFFC
    let hi := lo.2.busRead 0xFFFD
    s.boot = (hi.2.setPc (hi.1 ++ lo.1)).setSp 0xFF ∧
    s.keepsBut [.sp] [] [] s.boot ∧ s.boot.cyclesPending = s.cyclesPending ∧
    s.boot.addrLatch = 0xFFFD ∧ s.boot.dataLatch = hi.1

/-- R45, the columns "at construction" and "after `Boot`", on the fields whose value the spec gives: this is
what `construction` holds and what `Boot` makes of it, whatever was registered and loaded in between. -/
def Obligations.ConstructionThenBootValues : Prop :=
  (let c := State.construction
   c.a = 0 ∧ c.x = 0 ∧ c.y = 0 ∧ c.sp = 0 ∧ c.p = 0x04 ∧ c.pc = 0 ∧ c.cyclesPending = 0 ∧
   c.ready = true ∧ c.tickCount = 0 ∧ c.poweredOn = true) ∧
  ∀ (pl : Platform) (m : Memory),
    let c := (State.construction.setPlatform pl).setRam m
    let t := c.boot
    t.a = 0 ∧ t.x = 0 ∧ t.y = 0 ∧ t.sp = 0xFF ∧ t.p = 0x04 ∧
    t.pc = (((c.busRead 0xFFFC).2.busRead 0xFFFD).1 ++ (c.busRead 0xFFFC).1) ∧
    t.ram = m ∧ t.addrLatch = 0xFFFD ∧
    t.dataLatch = ((c.busRead 0xFFFC).2.busRead 0xFFFD).1 ∧
    t.cyclesPending = 0 ∧ t.ready = true ∧ t.tickCount = 0 ∧ t.poweredOn = true

/-- The model's `State.reset` is `Boot` of the constructed machine after FlatMem and the gate callback were
registered and nothing was loaded (R271 to R273). `RAM_INIT` is a free value (log entry 1); the platform
and the model's own fields are the model's choice (log entries 3, 4, 5, 7, 8 and 11). -/
def Obligations.ResetIsBootOfTheLaunchedMachine : Prop :=
  State.reset =
    (((State.construction.registerRead .flatMem).registerWrite .flatMem).registerTick .gate).boot

/-! ## The addressing modes -/

/-- R117 to R123: the effective address of the modes without a pointer, as arithmetic on numbers, every
zero-page sum modulo 256 and every 16-bit sum modulo 65536; whether the index leaves the page of the base;
and the value a read-class instruction gets. No such mode touches the bus before the operand is read. -/
def Obligations.DirectModesComputeTheirAddress : Prop :=
  ∀ s : State,
    s.operand .acc = (s.a, s) ∧
    (∀ n, s.operand (.imm n) = (n, s)) ∧
    (∀ z : Byte, s.operand (.zp z) = s.busRead (BitVec.ofNat 16 z.toNat)) ∧
    (∀ z : Byte, s.operand (.zpx z) = s.busRead (BitVec.ofNat 16 ((z.toNat + s.x.toNat) % 256))) ∧
    (∀ z : Byte, s.operand (.zpy z) = s.busRead (BitVec.ofNat 16 ((z.toNat + s.y.toNat) % 256))) ∧
    (∀ w : Addr, s.operand (.abs w) = s.busRead w) ∧
    (∀ w : Addr, s.operand (.abx w) = s.busRead (BitVec.ofNat 16 (w.toNat + s.x.toNat)) ∧
      s.place (.abx w) = (.mem (BitVec.ofNat 16 (w.toNat + s.x.toNat))
        (decide (256 ≤ w.toNat % 256 + s.x.toNat)), s)) ∧
    (∀ w : Addr, s.operand (.aby w) = s.busRead (BitVec.ofNat 16 (w.toNat + s.y.toNat)) ∧
      s.place (.aby w) = (.mem (BitVec.ofNat 16 (w.toNat + s.y.toNat))
        (decide (256 ≤ w.toNat % 256 + s.y.toNat)), s))

/-- R124 to R126: the modes with a pointer read its low byte and then its high byte, the second address
staying in the page of the first (Indirect) or in the zero page (Indexed-Indirect, Indirect-Indexed);
Indirect-Indexed adds `Y` to the pointer with carry into the high byte. -/
def Obligations.PointerModesReadTheirPointer : Prop :=
  ∀ s : State,
    let pair := fun (alo ahi : Nat) =>
      let lo := s.busRead (BitVec.ofNat 16 alo)
      let hi := lo.2.busRead (BitVec.ofNat 16 ahi)
      (256 * hi.1.toNat + lo.1.toNat, hi.2)
    (∀ w : Addr,
      let r := pair w.toNat (w.toNat / 256 * 256 + (w.toNat + 1) % 256)
      s.place (.ind w) = (.mem (BitVec.ofNat 16 r.1) false, r.2)) ∧
    (∀ z : Byte,
      let r := pair ((z.toNat + s.x.toNat) % 256) ((z.toNat + s.x.toNat + 1) % 256)
      s.place (.izx z) = (.mem (BitVec.ofNat 16 r.1) false, r.2) ∧
      s.operand (.izx z) = r.2.busRead (BitVec.ofNat 16 r.1)) ∧
    (∀ z : Byte,
      let r := pair z.toNat ((z.toNat + 1) % 256)
      s.place (.izy z) = (.mem (BitVec.ofNat 16 (r.1 + s.y.toNat))
        (decide (256 ≤ r.1 % 256 + s.y.toNat)), r.2) ∧
      s.operand (.izy z) = r.2.busRead (BitVec.ofNat 16 (r.1 + s.y.toNat)))

/-- R113: a resolver, and the read of the operand after it, write no register, no flag and no memory. -/
def Obligations.ResolversOnlyRead : Prop :=
  ∀ (o : Operand) (s : State),
    (s.keepsBut [] [] [] (s.place o).2 ∧ (s.place o).2.pc = s.pc) ∧
    (s.keepsBut [] [] [] (s.operand o).2 ∧ (s.operand o).2.pc = s.pc) ∧
    (∃ evs, (s.operand o).2.transcript = evs ++ s.transcript)

/-! ## Load, store, transfer -/

/-- R140, R141, R142: LDA, LDX, LDY put the operand into their register and set `Z`, `N` from it. -/
def Obligations.LoadsPutTheOperandIntoTheRegister : Prop :=
  EncodedAs .lda [(.imm, 0xA9), (.zp, 0xA5), (.zpx, 0xB5), (.abs, 0xAD), (.abx, 0xBD), (.aby, 0xB9),
    (.izx, 0xA1), (.izy, 0xB1)] ∧
  EncodedAs .ldx [(.imm, 0xA2), (.zp, 0xA6), (.zpy, 0xB6), (.abs, 0xAE), (.aby, 0xBE)] ∧
  EncodedAs .ldy [(.imm, 0xA0), (.zp, 0xA4), (.zpx, 0xB4), (.abs, 0xAC), (.abx, 0xBC)] ∧
  ∀ (o : Operand) (s : State),
    let m := (s.operand o).1
    ((Instr.lda o).wellFormed = true → ∃ t, exec (.lda o) s = .next t ∧ t.a = m ∧ t.znOf m ∧
      s.keepsBut [.a] [.z, .n] [] t ∧ t.pc = s.pc ∧ (s.operand o).2.busAs t) ∧
    ((Instr.ldx o).wellFormed = true → ∃ t, exec (.ldx o) s = .next t ∧ t.x = m ∧ t.znOf m ∧
      s.keepsBut [.x] [.z, .n] [] t ∧ t.pc = s.pc ∧ (s.operand o).2.busAs t) ∧
    ((Instr.ldy o).wellFormed = true → ∃ t, exec (.ldy o) s = .next t ∧ t.y = m ∧ t.znOf m ∧
      s.keepsBut [.y] [.z, .n] [] t ∧ t.pc = s.pc ∧ (s.operand o).2.busAs t)

/-- R143, R144, R145: STA, STX, STY write their register at `ea`, which is not read first; no flag. -/
def Obligations.StoresWriteTheRegisterAtTheAddress : Prop :=
  EncodedAs .sta [(.zp, 0x85), (.zpx, 0x95), (.abs, 0x8D), (.abx, 0x9D), (.aby, 0x99), (.izx, 0x81),
    (.izy, 0x91)] ∧
  EncodedAs .stx [(.zp, 0x86), (.zpy, 0x96), (.abs, 0x8E)] ∧
  EncodedAs .sty [(.zp, 0x84), (.zpx, 0x94), (.abs, 0x8C)] ∧
  ∀ (o : Operand) (s : State),
    let stores := fun (i : Instr) (v : Byte) =>
      ∃ t ea cross, (s.place o).1 = .mem ea cross ∧ exec i s = .next t ∧
        s.keepsBut [] [] (s.storeIndex ea).toList t ∧ t.pc = s.pc ∧
        (∀ k, s.storeIndex ea = some k → Memory.get t.ram k = v) ∧
        ((s.place o).2.busWrite ea v).busAs t
    ((Instr.sta o).wellFormed = true → stores (.sta o) s.a) ∧
    ((Instr.stx o).wellFormed = true → stores (.stx o) s.x) ∧
    ((Instr.sty o).wellFormed = true → stores (.sty o) s.y)

/-- R146 to R151: the six transfers; TXS alone sets no flag. None touches the bus or memory; each costs 2
cycles (R95, R291). -/
def Obligations.TransfersCopyOneRegister : Prop :=
  encode .tax = [0xAA] ∧ encode .tay = [0xA8] ∧ encode .txa = [0x8A] ∧ encode .tya = [0x98] ∧
  encode .tsx = [0xBA] ∧ encode .txs = [0x9A] ∧
  ∀ s : State,
    (∃ t, exec .tax s = .next t ∧ t.x = s.a ∧ t.znOf s.a ∧ s.keepsBut [.x] [.z, .n] [] t ∧
      t.pc = s.pc ∧ s.busAs t ∧ t.cyclesPending = 2) ∧
    (∃ t, exec .tay s = .next t ∧ t.y = s.a ∧ t.znOf s.a ∧ s.keepsBut [.y] [.z, .n] [] t ∧
      t.pc = s.pc ∧ s.busAs t ∧ t.cyclesPending = 2) ∧
    (∃ t, exec .txa s = .next t ∧ t.a = s.x ∧ t.znOf s.x ∧ s.keepsBut [.a] [.z, .n] [] t ∧
      t.pc = s.pc ∧ s.busAs t ∧ t.cyclesPending = 2) ∧
    (∃ t, exec .tya s = .next t ∧ t.a = s.y ∧ t.znOf s.y ∧ s.keepsBut [.a] [.z, .n] [] t ∧
      t.pc = s.pc ∧ s.busAs t ∧ t.cyclesPending = 2) ∧
    (∃ t, exec .tsx s = .next t ∧ t.x = s.sp ∧ t.znOf s.sp ∧ s.keepsBut [.x] [.z, .n] [] t ∧
      t.pc = s.pc ∧ s.busAs t ∧ t.cyclesPending = 2) ∧
    (∃ t, exec .txs s = .next t ∧ t.sp = s.x ∧ s.keepsBut [.sp] [] [] t ∧
      t.pc = s.pc ∧ s.busAs t ∧ t.cyclesPending = 2)

/-! ## Arithmetic -/

/-- R160: ADC. -/
def Obligations.AdcAddsWithCarry : Prop :=
  EncodedAs .adc [(.imm, 0x69), (.zp, 0x65), (.zpx, 0x75), (.abs, 0x6D), (.abx, 0x7D), (.aby, 0x79),
    (.izx, 0x61), (.izy, 0x71)] ∧
  ∀ (o : Operand) (s : State), (Instr.adc o).wellFormed = true →
    let m := (s.operand o).1
    let sum := s.a.toNat + m.toNat + (if s.flag .c = true then 1 else 0)
    ∃ t, exec (.adc o) s = .next t ∧ t.a = BitVec.ofNat 8 sum ∧ (t.flag .c = true ↔ 0xFF < sum) ∧
      (t.flag .v = true ↔ (s.a ^^^ t.a) &&& (m ^^^ t.a) &&& 0x80#8 ≠ 0#8) ∧ t.znOf t.a ∧
      s.keepsBut [.a] [.c, .v, .z, .n] [] t ∧ t.pc = s.pc ∧ (s.operand o).2.busAs t

/-- R161: SBC, with the borrow as the inverse of the carry. -/
def Obligations.SbcSubtractsWithBorrow : Prop :=
  EncodedAs .sbc [(.imm, 0xE9), (.zp, 0xE5), (.zpx, 0xF5), (.abs, 0xED), (.abx, 0xFD), (.aby, 0xF9),
    (.izx, 0xE1), (.izy, 0xF1)] ∧
  ∀ (o : Operand) (s : State), (Instr.sbc o).wellFormed = true →
    let m := (s.operand o).1
    let diff : Int := (s.a.toNat : Int) - m.toNat - (if s.flag .c = true then 0 else 1)
    ∃ t, exec (.sbc o) s = .next t ∧ t.a = BitVec.ofInt 8 diff ∧ (t.flag .c = true ↔ 0 ≤ diff) ∧
      (t.flag .v = true ↔ (s.a ^^^ t.a) &&& (m ^^^ 0xFF#8 ^^^ t.a) &&& 0x80#8 ≠ 0#8) ∧ t.znOf t.a ∧
      s.keepsBut [.a] [.c, .v, .z, .n] [] t ∧ t.pc = s.pc ∧ (s.operand o).2.busAs t

/-- R171, R173: the overflow formula is two's-complement overflow: `V` is set exactly when the signed sum or
difference lies outside -128 to 127. -/
def Obligations.OverflowMeansSignedOverflow : Prop :=
  ∀ (o : Operand) (s t : State),
    let a := s.a.toInt
    let m := (s.operand o).1.toInt
    let c : Int := if s.flag .c = true then 1 else 0
    (exec (.adc o) s = .next t → (t.flag .v = true ↔ a + m + c < -128 ∨ 127 < a + m + c)) ∧
    (exec (.sbc o) s = .next t → (t.flag .v = true ↔ a - m - (1 - c) < -128 ∨ 127 < a - m - (1 - c)))

/-- R2: no result depends on the Decimal flag, ADC's and SBC's among them: writing `D` before any
instruction but PHP and BRK, which push `P`, gives the same state, with `D` as the instruction sets it
or, if it does not write `D`, as written before. -/
def Obligations.DecimalFlagChangesNoResult : Prop :=
  ∀ (i : Instr) (b : Bool) (s t : State), i ∉ [.php, .brk] → exec i s = .next t →
    ∃ d, exec i (s.setFlag .d b) = .next (t.setFlag .d d) ∧
      (Flag.d ∈ flagsWritten i → d = t.flag .d) ∧ (Flag.d ∉ flagsWritten i → d = b)

/-- R162, R163, R164: CMP, CPX, CPY: `C` iff register >= operand as unsigned numbers, `Z`, `N` from the
8-bit difference; the register, `V` and memory stay. -/
def Obligations.ComparesSetFlagsOnly : Prop :=
  EncodedAs .cmp [(.imm, 0xC9), (.zp, 0xC5), (.zpx, 0xD5), (.abs, 0xCD), (.abx, 0xDD), (.aby, 0xD9),
    (.izx, 0xC1), (.izy, 0xD1)] ∧
  EncodedAs .cpx [(.imm, 0xE0), (.zp, 0xE4), (.abs, 0xEC)] ∧
  EncodedAs .cpy [(.imm, 0xC0), (.zp, 0xC4), (.abs, 0xCC)] ∧
  ∀ (o : Operand) (s : State),
    let m := (s.operand o).1
    let compares := fun (i : Instr) (r : Byte) =>
      ∃ t, exec i s = .next t ∧ (t.flag .c = true ↔ m.toNat ≤ r.toNat) ∧
        t.znOf (BitVec.ofInt 8 ((r.toNat : Int) - m.toNat)) ∧
        s.keepsBut [] [.c, .z, .n] [] t ∧ t.pc = s.pc ∧ (s.operand o).2.busAs t
    ((Instr.cmp o).wellFormed = true → compares (.cmp o) s.a) ∧
    ((Instr.cpx o).wellFormed = true → compares (.cpx o) s.x) ∧
    ((Instr.cpy o).wellFormed = true → compares (.cpy o) s.y)

/-- R165, R166: INC and DEC write the operand plus or minus 1 back to where it was read. -/
def Obligations.IncDecModifyMemory : Prop :=
  EncodedAs .inc [(.zp, 0xE6), (.zpx, 0xF6), (.abs, 0xEE), (.abx, 0xFE)] ∧
  EncodedAs .dec [(.zp, 0xC6), (.zpx, 0xD6), (.abs, 0xCE), (.abx, 0xDE)] ∧
  ∀ (o : Operand) (s : State),
    let m := (s.operand o).1
    ((Instr.inc o).wellFormed = true → ∃ t, exec (.inc o) s = .next t ∧
      s.wroteBack o (BitVec.ofNat 8 (m.toNat + 1)) [.z, .n] t) ∧
    ((Instr.dec o).wellFormed = true → ∃ t, exec (.dec o) s = .next t ∧
      s.wroteBack o (BitVec.ofNat 8 (m.toNat + 255)) [.z, .n] t)

/-- R167 to R170: INX, INY, DEX, DEY wrap modulo 256 and set `Z`, `N` only, at 2 cycles (R95, R291). -/
def Obligations.IncDecRegistersWrap : Prop :=
  encode .inx = [0xE8] ∧ encode .iny = [0xC8] ∧ encode .dex = [0xCA] ∧ encode .dey = [0x88] ∧
  ∀ s : State,
    (∃ t, exec .inx s = .next t ∧ t.x.toNat = (s.x.toNat + 1) % 256 ∧ t.znOf t.x ∧
      s.keepsBut [.x] [.z, .n] [] t ∧ t.pc = s.pc ∧ s.busAs t ∧ t.cyclesPending = 2) ∧
    (∃ t, exec .iny s = .next t ∧ t.y.toNat = (s.y.toNat + 1) % 256 ∧ t.znOf t.y ∧
      s.keepsBut [.y] [.z, .n] [] t ∧ t.pc = s.pc ∧ s.busAs t ∧ t.cyclesPending = 2) ∧
    (∃ t, exec .dex s = .next t ∧ t.x.toNat = (s.x.toNat + 255) % 256 ∧ t.znOf t.x ∧
      s.keepsBut [.x] [.z, .n] [] t ∧ t.pc = s.pc ∧ s.busAs t ∧ t.cyclesPending = 2) ∧
    (∃ t, exec .dey s = .next t ∧ t.y.toNat = (s.y.toNat + 255) % 256 ∧ t.znOf t.y ∧
      s.keepsBut [.y] [.z, .n] [] t ∧ t.pc = s.pc ∧ s.busAs t ∧ t.cyclesPending = 2)

/-! ## Logic, shifts -/

/-- R180, R181, R182: AND, ORA, EOR, bit by bit. -/
def Obligations.LogicWorksBitByBit : Prop :=
  EncodedAs .and [(.imm, 0x29), (.zp, 0x25), (.zpx, 0x35), (.abs, 0x2D), (.abx, 0x3D), (.aby, 0x39),
    (.izx, 0x21), (.izy, 0x31)] ∧
  EncodedAs .ora [(.imm, 0x09), (.zp, 0x05), (.zpx, 0x15), (.abs, 0x0D), (.abx, 0x1D), (.aby, 0x19),
    (.izx, 0x01), (.izy, 0x11)] ∧
  EncodedAs .eor [(.imm, 0x49), (.zp, 0x45), (.zpx, 0x55), (.abs, 0x4D), (.abx, 0x5D), (.aby, 0x59),
    (.izx, 0x41), (.izy, 0x51)] ∧
  ∀ (o : Operand) (s : State),
    let m := (s.operand o).1
    let combines := fun (i : Instr) (f : Bool → Bool → Bool) =>
      ∃ t, exec i s = .next t ∧ (∀ k, k < 8 → t.a.getLsbD k = f (s.a.getLsbD k) (m.getLsbD k)) ∧
        t.znOf t.a ∧ s.keepsBut [.a] [.z, .n] [] t ∧ t.pc = s.pc ∧ (s.operand o).2.busAs t
    ((Instr.and o).wellFormed = true → combines (.and o) (fun p q => p && q)) ∧
    ((Instr.ora o).wellFormed = true → combines (.ora o) (fun p q => p || q)) ∧
    ((Instr.eor o).wellFormed = true → combines (.eor o) (fun p q => p != q))

/-- R183: BIT takes `Z` from `A & opnd` and `V`, `N` from the operand's own bits 6 and 7. -/
def Obligations.BitTestsTheOperand : Prop :=
  EncodedAs .bit [(.zp, 0x24), (.abs, 0x2C)] ∧
  ∀ (o : Operand) (s : State), (Instr.bit o).wellFormed = true →
    let m := (s.operand o).1
    ∃ t, exec (.bit o) s = .next t ∧ (t.flag .z = true ↔ s.a &&& m = 0#8) ∧
      t.flag .v = m.getLsbD 6 ∧ t.flag .n = m.getLsbD 7 ∧
      s.keepsBut [] [.z, .v, .n] [] t ∧ t.pc = s.pc ∧ (s.operand o).2.busAs t

/-- R184, R186: ASL and ROL, as arithmetic on numbers: twice the operand, plus the old carry for ROL;
`C` takes bit 7. In memory and in `A` alike. -/
def Obligations.LeftShiftsDouble : Prop :=
  EncodedAs .asl [(.acc, 0x0A), (.zp, 0x06), (.zpx, 0x16), (.abs, 0x0E), (.abx, 0x1E)] ∧
  EncodedAs .rol [(.acc, 0x2A), (.zp, 0x26), (.zpx, 0x36), (.abs, 0x2E), (.abx, 0x3E)] ∧
  ∀ (o : Operand) (s : State),
    let m := (s.operand o).1
    let c := if s.flag .c = true then 1 else 0
    ((Instr.asl o).wellFormed = true → ∃ t, exec (.asl o) s = .next t ∧
      s.wroteBack o (BitVec.ofNat 8 (2 * m.toNat)) [.c, .z, .n] t ∧
      (t.flag .c = true ↔ 128 ≤ m.toNat)) ∧
    ((Instr.rol o).wellFormed = true → ∃ t, exec (.rol o) s = .next t ∧
      s.wroteBack o (BitVec.ofNat 8 (2 * m.toNat + c)) [.c, .z, .n] t ∧
      (t.flag .c = true ↔ 128 ≤ m.toNat))

/-- R185, R187: LSR and ROR: half the operand, the old carry as bit 7 for ROR; `C` takes bit 0. -/
def Obligations.RightShiftsHalve : Prop :=
  EncodedAs .lsr [(.acc, 0x4A), (.zp, 0x46), (.zpx, 0x56), (.abs, 0x4E), (.abx, 0x5E)] ∧
  EncodedAs .ror [(.acc, 0x6A), (.zp, 0x66), (.zpx, 0x76), (.abs, 0x6E), (.abx, 0x7E)] ∧
  ∀ (o : Operand) (s : State),
    let m := (s.operand o).1
    let c := if s.flag .c = true then 1 else 0
    ((Instr.lsr o).wellFormed = true → ∃ t, exec (.lsr o) s = .next t ∧
      s.wroteBack o (BitVec.ofNat 8 (m.toNat / 2)) [.c, .z, .n] t ∧
      (t.flag .c = true ↔ m.toNat % 2 = 1)) ∧
    ((Instr.ror o).wellFormed = true → ∃ t, exec (.ror o) s = .next t ∧
      s.wroteBack o (BitVec.ofNat 8 (m.toNat / 2 + 128 * c)) [.c, .z, .n] t ∧
      (t.flag .c = true ↔ m.toNat % 2 = 1))

/-! ## Control flow -/

/-- R200 to R208: a branch whose condition holds sets `PC` to the address after it plus the signed offset and
costs 3 cycles, 4 if that lies in another page; else it only costs its 2 cycles. Nothing else changes. -/
def Obligations.BranchesMovePcOnTheirCondition : Prop :=
  ∀ (off : Byte) (s : State),
    let target := BitVec.ofInt 16 ((s.pc.toNat : Int) + off.toInt)
    let cost := if target.toNat / 256 = s.pc.toNat / 256 then 3 else 4
    let branch := fun (cond : Bool) =>
      if cond = true then (s.setPc target).setCyclesPending cost else s.setCyclesPending 2
    (encode (.bcc off) = [0x90, off] ∧ exec (.bcc off) s = .next (branch (s.flag .c == false))) ∧
    (encode (.bcs off) = [0xB0, off] ∧ exec (.bcs off) s = .next (branch (s.flag .c == true))) ∧
    (encode (.beq off) = [0xF0, off] ∧ exec (.beq off) s = .next (branch (s.flag .z == true))) ∧
    (encode (.bmi off) = [0x30, off] ∧ exec (.bmi off) s = .next (branch (s.flag .n == true))) ∧
    (encode (.bne off) = [0xD0, off] ∧ exec (.bne off) s = .next (branch (s.flag .z == false))) ∧
    (encode (.bpl off) = [0x10, off] ∧ exec (.bpl off) s = .next (branch (s.flag .n == false))) ∧
    (encode (.bvc off) = [0x50, off] ∧ exec (.bvc off) s = .next (branch (s.flag .v == false))) ∧
    (encode (.bvs off) = [0x70, off] ∧ exec (.bvs off) s = .next (branch (s.flag .v == true)))

/-- R209: JMP sets `PC` to `ea`: the operand, or the word read through it with the second byte from the same
page. The byte at `ea` is not read. -/
def Obligations.JmpSetsPc : Prop :=
  EncodedAs .jmp [(.abs, 0x4C), (.ind, 0x6C)] ∧
  ∀ (w : Addr) (s : State),
    exec (.jmp (.abs w)) s = .next ((s.setPc w).setCyclesPending 3) ∧
    (let lo := s.busRead w
     let hi := lo.2.busRead (BitVec.ofNat 16 (w.toNat / 256 * 256 + (w.toNat + 1) % 256))
     exec (.jmp (.ind w)) s = .next ((hi.2.setPc (hi.1 ++ lo.1)).setCyclesPending 5))

/-- R211: JSR pushes `PC - 1`, high byte first, and jumps; `S` falls by 2. -/
def Obligations.JsrPushesTheReturnAddress : Prop :=
  EncodedAs .jsr [(.abs, 0x20)] ∧
  ∀ (w : Addr) (s : State),
    let ret := (s.pc.toNat + 65535) % 65536
    ∃ t, exec (.jsr (.abs w)) s = .next t ∧ t.pc = w ∧ t.sp = s.sp - 2#8 ∧
      s.keepsBut [.sp] [] [0x100 + s.sp.toNat, 0x100 + (s.sp - 1#8).toNat] t ∧
      (Memory.get t.ram (0x100 + s.sp.toNat)).toNat = ret / 256 ∧
      (Memory.get t.ram (0x100 + (s.sp - 1#8).toNat)).toNat = ret % 256 ∧
      t.transcript = s.transcript ∧ t.addrLatch.toNat = 0x100 + (s.sp - 1#8).toNat ∧
      t.dataLatch.toNat = ret % 256 ∧ t.cyclesPending = 6

/-- R212: RTS pulls the low byte, then the high byte, and sets `PC` to the pulled word plus 1. -/
def Obligations.RtsPullsTheReturnAddress : Prop :=
  encode .rts = [0x60] ∧
  ∀ s : State,
    let lo := Memory.get s.ram (0x100 + (s.sp + 1#8).toNat)
    let hi := Memory.get s.ram (0x100 + (s.sp + 2#8).toNat)
    ∃ t, exec .rts s = .next t ∧ t.pc = BitVec.ofNat 16 (256 * hi.toNat + lo.toNat + 1) ∧
      t.sp = s.sp + 2#8 ∧ s.keepsBut [.sp] [] [] t ∧ t.transcript = s.transcript ∧
      t.addrLatch.toNat = 0x100 + (s.sp + 2#8).toNat ∧ t.dataLatch = hi ∧ t.cyclesPending = 6

/-- R211 with R212 (the source's stack round trip): an RTS right after a JSR returns to the instruction after
the JSR with `S` as before, wherever `S` stands. -/
def Obligations.RtsUndoesJsr : Prop :=
  ∀ (w : Addr) (s : State),
    ∃ t u, exec (.jsr (.abs w)) s = .next t ∧ exec .rts t = .next u ∧
      u.pc = s.pc ∧ u.sp = s.sp ∧ u.a = s.a ∧ u.x = s.x ∧ u.y = s.y ∧ u.p = s.p

/-! ## Stack, flags, system -/

/-- R220, R221: PHA pushes `A`; PHP pushes `P` with bits 4 and 5 set; `S` falls by 1 modulo 256. -/
def Obligations.PushesStoreOnTheStack : Prop :=
  encode .pha = [0x48] ∧ encode .php = [0x08] ∧
  ∀ s : State,
    let pushes := fun (i : Instr) (v : Byte) =>
      ∃ t, exec i s = .next t ∧ t.sp = s.sp - 1#8 ∧ t.p = s.p ∧
        s.keepsBut [.sp] [] [0x100 + s.sp.toNat] t ∧ t.pc = s.pc ∧
        Memory.get t.ram (0x100 + s.sp.toNat) = v ∧
        t.transcript = s.transcript ∧ t.addrLatch.toNat = 0x100 + s.sp.toNat ∧ t.dataLatch = v ∧
        t.cyclesPending = 3
    pushes .pha s.a ∧ pushes .php (s.p ||| 0x30#8)

/-- R222, R223: PLA pulls into `A` and sets `Z`, `N`; PLP pulls `P` and clears bits 4 and 5. -/
def Obligations.PullsReadTheStack : Prop :=
  encode .pla = [0x68] ∧ encode .plp = [0x28] ∧
  ∀ s : State,
    let v := Memory.get s.ram (0x100 + (s.sp + 1#8).toNat)
    let pulled := fun (t : State) =>
      t.sp = s.sp + 1#8 ∧ t.pc = s.pc ∧ t.ram = s.ram ∧ t.transcript = s.transcript ∧
        t.addrLatch.toNat = 0x100 + (s.sp + 1#8).toNat ∧ t.dataLatch = v ∧ t.cyclesPending = 4
    (∃ t, exec .pla s = .next t ∧ t.a = v ∧ t.znOf v ∧ s.keepsBut [.a, .sp] [.z, .n] [] t ∧ pulled t) ∧
    (∃ t, exec .plp s = .next t ∧ t.p = v &&& 0xCF#8 ∧
      s.keepsBut [.sp] [.c, .z, .i, .d, .b, .u, .v, .n] [] t ∧ pulled t)

/-- R223, corner case: PHP then PLP leaves `C`, `Z`, `I`, `D`, `V`, `N` and `S` as they were and clears `B`
and `U`. -/
def Obligations.PlpUndoesPhp : Prop :=
  ∀ s : State,
    ∃ t u, exec .php s = .next t ∧ exec .plp t = .next u ∧ u.sp = s.sp ∧
      s.keepsFlags [.b, .u] u ∧ u.flag .b = false ∧ u.flag .u = false

/-- R224 to R230: each flag instruction writes its one flag and nothing else. -/
def Obligations.FlagInstructionsWriteOneFlag : Prop :=
  encode .clc = [0x18] ∧ encode .sec = [0x38] ∧ encode .cli = [0x58] ∧ encode .sei = [0x78] ∧
  encode .cld = [0xD8] ∧ encode .sed = [0xF8] ∧ encode .clv = [0xB8] ∧
  ∀ s : State,
    let writes := fun (i : Instr) (f : Flag) (v : Bool) =>
      ∃ t, exec i s = .next t ∧ t.flag f = v ∧ s.keepsBut [] [f] [] t ∧ t.pc = s.pc ∧
        t.ram = s.ram ∧ s.busAs t ∧ t.cyclesPending = 2
    writes .clc .c false ∧ writes .sec .c true ∧ writes .cli .i false ∧ writes .sei .i true ∧
    writes .cld .d false ∧ writes .sed .d true ∧ writes .clv .v false

/-- R235, R240: NOP and every unassigned opcode change nothing but the cycle count, which is 2. The length
and the count of an unassigned opcode are the spec's own choice (D2, U5), presumed in log entry 10. -/
def Obligations.NopAndUnassignedChangeNothing : Prop :=
  encode .nop = [0xEA] ∧
  ∀ s : State, exec .nop s = .next (s.setCyclesPending 2) ∧
    ∀ op : Byte, op ∈ unassignedBytes →
      encode (.unassigned op) = [op] ∧ exec (.unassigned op) s = .next (s.setCyclesPending 2)

/-- R236, R253: BRK pushes the address after its padding byte, high byte first, then the status with bits 4
and 5 set; sets `I` and no other flag; lowers `S` by 3; loads `PC` from 0xFFFE/0xFFFF, low byte first. With
FlatMem answering, that is the word in the array; with nobody answering, the pushed status twice. -/
def Obligations.BrkEntersTheHandler : Prop :=
  encode .brk = [0x00] ∧
  ∀ s : State,
    let ret := (s.pc.toNat + 1) % 65536
    let pushed := ((s.push (BitVec.ofNat 8 (ret / 256))).push (BitVec.ofNat 8 ret)).push (s.p ||| 0x30#8)
    let lo := pushed.busRead 0xFFFE
    let hi := lo.2.busRead 0xFFFF
    ∃ t, exec .brk s = .next t ∧ t.sp = s.sp - 3#8 ∧ t.flag .i = true ∧
      s.keepsBut [.sp] [.i]
        [0x100 + s.sp.toNat, 0x100 + (s.sp - 1#8).toNat, 0x100 + (s.sp - 2#8).toNat] t ∧
      (Memory.get t.ram (0x100 + s.sp.toNat)).toNat = ret / 256 ∧
      (Memory.get t.ram (0x100 + (s.sp - 1#8).toNat)).toNat = ret % 256 ∧
      Memory.get t.ram (0x100 + (s.sp - 2#8).toNat) = s.p ||| 0x30#8 ∧
      t.pc = hi.1 ++ lo.1 ∧ hi.2.busAs t ∧ t.cyclesPending = 7 ∧
      (s.platform.readInterceptors.head? = some .flatMem →
        t.pc = Memory.get s.ram 0xFFFF ++ Memory.get s.ram 0xFFFE) ∧
      (s.platform.readInterceptors = [] → t.pc = (s.p ||| 0x30#8) ++ (s.p ||| 0x30#8))

/-- R237, R256: RTI loads all eight bits of `P`, then `PC`, low byte first and with no adjustment. -/
def Obligations.RtiRestoresStatusAndPc : Prop :=
  encode .rti = [0x40] ∧
  ∀ s : State,
    let cell := fun (n : Byte) => Memory.get s.ram (0x100 + (s.sp + n).toNat)
    ∃ t, exec .rti s = .next t ∧ t.p = cell 1 ∧ t.pc = cell 3 ++ cell 2 ∧ t.sp = s.sp + 3#8 ∧
      s.keepsBut [.sp] [.c, .z, .i, .d, .b, .u, .v, .n] [] t ∧ t.transcript = s.transcript ∧
      t.addrLatch.toNat = 0x100 + (s.sp + 3#8).toNat ∧ t.dataLatch = cell 3 ∧ t.cyclesPending = 6

/-- R236 with R237: an RTI right after a BRK resumes after the padding byte, with `S` and the registers as
before the BRK and `P` as before it but for bits 4 and 5, which it leaves set. -/
def Obligations.RtiUndoesBrk : Prop :=
  ∀ s : State,
    ∃ t u, exec .brk s = .next t ∧ exec .rti t = .next u ∧
      u.pc = s.pc + 1#16 ∧ u.sp = s.sp ∧ u.p = s.p ||| 0x30#8 ∧ u.a = s.a ∧ u.x = s.x ∧ u.y = s.y

/-! ## Whole-machine rules -/

/-- R250: no instruction faults: every instruction of the table completes in every state. A term outside the
table, which no bytes decode to, is refused (log entry 13). -/
def Obligations.EveryInstructionCompletes : Prop :=
  ∀ (i : Instr) (s : State),
    (i.wellFormed = true → ∃ t, exec i s = .next t) ∧
    (i.wellFormed = false → exec i s = .refused .notInTable)

/-- R28, with R21 to R24 and R26: each instruction writes no flag but those R28 lists for it, no register but
those R21 to R24 list, `PC` only if it is one R26 names, and no cell but those it stores to; and it keeps
the array canonical. -/
def Obligations.OnlyListedStateChanges : Prop :=
  ∀ (i : Instr) (s t : State), exec i s = .next t →
    s.keepsBut (regsWritten i) (flagsWritten i) (cellsWritten s i) t ∧
    (writesPc i = false → t.pc = s.pc) ∧
    (Memory.wf s.ram = true → Memory.wf t.ram = true) ∧
    (∃ evs, t.transcript = evs ++ s.transcript)

/-- R30: the values of `B` and `U` are not observable: two states that differ in these bits of `P` only run
any instruction to states that differ in these bits only. -/
def Obligations.BreakAndUnusedAreNotObservable : Prop :=
  ∀ (i : Instr) (q : Byte) (s t : State), s.keepsFlags [.b, .u] (s.setP q) → exec i s = .next t →
    ∃ q', exec i (s.setP q) = .next (t.setP q') ∧ t.keepsFlags [.b, .u] (t.setP q')

/-- R290: timing is not architectural: no result of an instruction depends on the gate's state, which it
leaves alone but for its own cycle cost. -/
def Obligations.TimingIsNotArchitectural : Prop :=
  ∀ (i : Instr) (n k : Nat) (r : Bool) (s t : State), exec i s = .next t →
    exec i (((s.setCyclesPending n).setReady r).setTickCount k) =
      .next ((t.setReady r).setTickCount k)

/-! ## The step -/

/-- R110, R111, R284: when the CPU's turn is next and the gate is open, the step closes the gate, fetches
the bytes at `PC`, and is `exec` of what they decode to, in the state after the fetch, followed by the
test loop's poll. R280, R281: every other step is the turn of the agent that is next: a poll of the closed
gate, a tick, power-off, `Boot`, a PPU read; with no turn laid down a closed gate gets a tick. The order
of the turns is the list `inputs` (log entry 8). -/
def Obligations.StepRunsTheDecodedInstruction : Prop :=
  (∀ (s f : State) (bs rest : List Byte) (i : Instr), s.cpuEnabled →
    (s.turnTaken.setReady false).fetch = (bs, f) → decode bs = .ok (i, rest) →
    rest = [] ∧
    (∀ t, exec i f = .next t → step s = .next t.pollTest) ∧
    (s.platform.testStatus = none → step s = exec i f)) ∧
  ∀ s : State, s.running →
    (s.inputs = [] → s.ready = false → step s = .next s.tick) ∧
    (∀ rest, s.inputs = .cpu :: rest → s.ready = false → step s = .next (s.setInputs rest)) ∧
    (∀ rest, s.inputs = .tick :: rest → step s = .next (s.setInputs rest).tick) ∧
    (∀ rest, s.inputs = .powerOff :: rest → step s = .next ((s.setInputs rest).setPoweredOn false)) ∧
    (∀ rest, s.inputs = .boot :: rest → step s = .next (s.setInputs rest).boot) ∧
    (∀ rest a, s.inputs = .ppuRead a :: rest → step s = .next ((s.setInputs rest).ppuRead a).2)

/-- R26, R92, R111, R133: the fetch reads the opcode at `PC` and as many bytes after it as its mode has, each
one bus read at consecutive addresses modulo 65536; `PC` ends after the last of them and every other
register, flag and cell stays. What it fetched always decodes, to a well-formed instruction. -/
def Obligations.FetchReadsTheInstructionAtPc : Prop :=
  ∀ s : State,
    let b := s.busRead s.pc
    let at1 := (b.2.setPc (s.pc + 1#16)).setAddrLatch (s.pc + 1#16)
    let b1 := at1.busRead (s.pc + 1#16)
    let b2 := (b1.2.setPc (s.pc + 2#16)).busRead (s.pc + 2#16)
    let n := (entryAt b.1).mode.operandBytes
    (n = 0 → s.fetch = ([b.1], at1)) ∧
    (n = 1 → s.fetch = ([b.1, b1.1], b1.2.setPc (s.pc + 2#16))) ∧
    (n = 2 → s.fetch = ([b.1, b1.1, b2.1], b2.2.setPc (s.pc + 3#16))) ∧
    n ≤ 2 ∧ s.keepsBut [] [] [] s.fetch.2 ∧
    ∃ i, decode s.fetch.1 = .ok (i, []) ∧ i.wellFormed = true

/-- R250, R287: the run ends only by power-off or by the test loop's sentinel: from every other state there
is a next one. -/
def Obligations.StepStopsOnlyAtPowerOffOrSentinel : Prop :=
  ∀ s : State,
    (s.poweredOn = true → s.runEnded = false → ∃ t, step s = .next t) ∧
    (s.poweredOn = false → s.runEnded = false → step s = .fault .poweredOff) ∧
    (s.runEnded = true → step s = .fault .testRunEnded)

/-- R286, R263: the host may clear `powered_on` before or after any instruction, at an open or a closed gate;
it changes nothing else and takes effect between instructions only: one already started completes. It is
final: the next step is the stop, and no step sets the flag again. -/
def Obligations.PowerOffIsFinal : Prop :=
  (∀ (s : State) (rest : List Input), s.running → s.inputs = .powerOff :: rest →
    step s = .next ((s.setInputs rest).setPoweredOn false) ∧
    step ((s.setInputs rest).setPoweredOn false) = .fault .poweredOff) ∧
  (∀ (s : State) (rest : List Input), s.cpuEnabled → s.inputs = .cpu :: .powerOff :: rest →
    ∃ t, step s = .next t ∧ t.poweredOn = true ∧ t.inputs = .powerOff :: rest ∧
      (∃ i f, decode (s.turnTaken.setReady false).fetch.1 = .ok (i, []) ∧
        exec i (s.turnTaken.setReady false).fetch.2 = .next f ∧ t = f.pollTest) ∧
      (t.runEnded = false → step t = .next ((t.setInputs rest).setPoweredOn false))) ∧
  ∀ s t : State, step s = .next t → t.poweredOn = true → s.poweredOn = true

/-- R262: the poll of the test loop is one bus read at its address, ends the run exactly if the byte is among
the done bytes, and changes nothing else; the plain loop does not poll. -/
def Obligations.TestLoopPollsItsByte : Prop :=
  ∀ s : State,
    (s.platform.testStatus = none → s.pollTest = s) ∧
    (∀ a done, s.platform.testStatus = some ⟨a, done⟩ →
      s.pollTest = (s.busRead a).2.setRunEnded (s.runEnded || decide ((s.busRead a).1 ∈ done)))

/-- R41, R64: before a run each registration appends its interceptor or callback to the end of its own list
and changes nothing else; no step of a run registers or drops one or changes a launch parameter. -/
def Obligations.LaunchParametersNeverChange : Prop :=
  (∀ s : State,
    (∀ f, s.registerRead f = s.setPlatform (s.registerRead f).platform ∧
      (s.registerRead f).platform =
        { s.platform with readInterceptors := s.platform.readInterceptors ++ [f] }) ∧
    (∀ g, s.registerWrite g = s.setPlatform (s.registerWrite g).platform ∧
      (s.registerWrite g).platform =
        { s.platform with writeInterceptors := s.platform.writeInterceptors ++ [g] }) ∧
    (∀ f, s.registerPpuRead f = s.setPlatform (s.registerPpuRead f).platform ∧
      (s.registerPpuRead f).platform =
        { s.platform with ppuReadInterceptors := s.platform.ppuReadInterceptors ++ [f] }) ∧
    (∀ c, s.registerTick c = s.setPlatform (s.registerTick c).platform ∧
      (s.registerTick c).platform =
        { s.platform with tickCallbacks := s.platform.tickCallbacks ++ [c] })) ∧
  ∀ s t : State, step s = .next t → t.platform = s.platform

/-- R283, line by line: `GateTick`. R281: one `Tick` calls every registered callback once, in registration
order: the external ones are recorded in that order, `GateTick` is run as often as it is registered, and
nothing else changes. -/
def Obligations.GateTickCountsDown : Prop :=
  ∀ s : State,
    (s.tickCount + 1 ≠ s.platform.tickDivisor →
      s.gateTick = s.setTickCount (s.tickCount + 1)) ∧
    (s.tickCount + 1 = s.platform.tickDivisor → 1 < s.cyclesPending →
      s.gateTick = (s.setTickCount 0).setCyclesPending (s.cyclesPending - 1)) ∧
    (s.tickCount + 1 = s.platform.tickDivisor → s.cyclesPending ≤ 1 →
      s.gateTick = ((s.setTickCount 0).setCyclesPending 0).setReady true) ∧
    (let calls := s.platform.tickCallbacks.filterMap fun c =>
      match c with
      | .external id => some (Event.tickTold id)
      | .gate => none
     s.tick = (State.gateTick^[s.platform.tickCallbacks.count .gate] s).setTranscript
      (calls.reverse ++ s.transcript))

/-- R284, R285: an instruction runs only with the gate open and leaves it closed, with at least two cycles
pending; so no second instruction follows it before the Clock has counted them down. It takes one turn and
leaves those after it. -/
def Obligations.InstructionLeavesTheGateClosed : Prop :=
  ∀ s t : State, s.cpuEnabled → step s = .next t →
    t.ready = false ∧ 2 ≤ t.cyclesPending ∧ t.cyclesPending ≤ 7 ∧ t.tickCount = s.tickCount ∧
      t.inputs = s.inputs.tail

/-- R283, R284, R289: a closed gate opens again after exactly `cyclesPending * TICK_DIVISOR` ticks less the
phase of `tick_count`, and not before; until then only the gate changes, and each tick calls the external
tick callbacks once in registration order. -/
def Obligations.GateOpensAfterItsCycles : Prop :=
  ∀ s : State, s.inv = true → s.running → s.inputs = [] → s.ready = false →
    let n := s.cyclesPending * s.platform.tickDivisor - s.tickCount
    let calls := s.platform.tickCallbacks.filterMap fun c =>
      match c with
      | .external id => some (Event.tickTold id)
      | .gate => none
    0 < n ∧
    (∃ t, core.run n s = .next t ∧ t.ready = true ∧
      t.transcript = (List.replicate n calls.reverse).flatten ++ s.transcript ∧
      s.sameButGate (t.setTranscript s.transcript)) ∧
    (∀ k, k < n → ∃ u, core.run k s = .next u ∧ u.ready = false)

/-- Every step keeps the invariant `State.inv`: the array canonical (R41), the launch parameters legal (R6),
the tick phase below the divisor (R42), the countdown at most 7 (R5), the gate open exactly when nothing is
pending (R283, R284). -/
def Obligations.StepKeepsTheInvariant : Prop :=
  ∀ s t : State, s.inv = true → step s = .next t → t.inv = true

/-- The invariant holds in the model's reset state, and in every constructed machine with legal launch
parameters, a canonical array and after `Boot`. -/
def Obligations.InvariantHoldsAfterBoot : Prop :=
  State.reset.inv = true ∧
  ∀ (pl : Platform) (m : Memory), Platform.wf pl = true → Memory.wf m = true →
    ((State.construction.setPlatform pl).setRam m).boot.inv = true
end

