-- ==== Sys2Proof/Laws/State.lean ====
section
/-! SUPPORT. One lemma per field per update of State, each true by unfolding the update once. -/

namespace Sys2Proof.Machine

variable (s : State)

/-! `setA` -/
@[simp] theorem State.a_setA v : (s.setA v).a = v := rfl
@[simp] theorem State.x_setA v : (s.setA v).x = s.x := rfl
@[simp] theorem State.y_setA v : (s.setA v).y = s.y := rfl
@[simp] theorem State.sp_setA v : (s.setA v).sp = s.sp := rfl
@[simp] theorem State.p_setA v : (s.setA v).p = s.p := rfl
@[simp] theorem State.pc_setA v : (s.setA v).pc = s.pc := rfl
@[simp] theorem State.ram_setA v : (s.setA v).ram = s.ram := rfl
@[simp] theorem State.addrLatch_setA v : (s.setA v).addrLatch = s.addrLatch := rfl
@[simp] theorem State.dataLatch_setA v : (s.setA v).dataLatch = s.dataLatch := rfl
@[simp] theorem State.platform_setA v : (s.setA v).platform = s.platform := rfl
@[simp] theorem State.cyclesPending_setA v : (s.setA v).cyclesPending = s.cyclesPending := rfl
@[simp] theorem State.ready_setA v : (s.setA v).ready = s.ready := rfl
@[simp] theorem State.tickCount_setA v : (s.setA v).tickCount = s.tickCount := rfl
@[simp] theorem State.poweredOn_setA v : (s.setA v).poweredOn = s.poweredOn := rfl
@[simp] theorem State.runEnded_setA v : (s.setA v).runEnded = s.runEnded := rfl
@[simp] theorem State.inputs_setA v : (s.setA v).inputs = s.inputs := rfl
@[simp] theorem State.transcript_setA v : (s.setA v).transcript = s.transcript := rfl
@[simp] theorem State.flag_setA f v : (s.setA v).flag f = s.flag f := rfl

/-! `setX` -/
@[simp] theorem State.a_setX v : (s.setX v).a = s.a := rfl
@[simp] theorem State.x_setX v : (s.setX v).x = v := rfl
@[simp] theorem State.y_setX v : (s.setX v).y = s.y := rfl
@[simp] theorem State.sp_setX v : (s.setX v).sp = s.sp := rfl
@[simp] theorem State.p_setX v : (s.setX v).p = s.p := rfl
@[simp] theorem State.pc_setX v : (s.setX v).pc = s.pc := rfl
@[simp] theorem State.ram_setX v : (s.setX v).ram = s.ram := rfl
@[simp] theorem State.addrLatch_setX v : (s.setX v).addrLatch = s.addrLatch := rfl
@[simp] theorem State.dataLatch_setX v : (s.setX v).dataLatch = s.dataLatch := rfl
@[simp] theorem State.platform_setX v : (s.setX v).platform = s.platform := rfl
@[simp] theorem State.cyclesPending_setX v : (s.setX v).cyclesPending = s.cyclesPending := rfl
@[simp] theorem State.ready_setX v : (s.setX v).ready = s.ready := rfl
@[simp] theorem State.tickCount_setX v : (s.setX v).tickCount = s.tickCount := rfl
@[simp] theorem State.poweredOn_setX v : (s.setX v).poweredOn = s.poweredOn := rfl
@[simp] theorem State.runEnded_setX v : (s.setX v).runEnded = s.runEnded := rfl
@[simp] theorem State.inputs_setX v : (s.setX v).inputs = s.inputs := rfl
@[simp] theorem State.transcript_setX v : (s.setX v).transcript = s.transcript := rfl
@[simp] theorem State.flag_setX f v : (s.setX v).flag f = s.flag f := rfl

/-! `setY` -/
@[simp] theorem State.a_setY v : (s.setY v).a = s.a := rfl
@[simp] theorem State.x_setY v : (s.setY v).x = s.x := rfl
@[simp] theorem State.y_setY v : (s.setY v).y = v := rfl
@[simp] theorem State.sp_setY v : (s.setY v).sp = s.sp := rfl
@[simp] theorem State.p_setY v : (s.setY v).p = s.p := rfl
@[simp] theorem State.pc_setY v : (s.setY v).pc = s.pc := rfl
@[simp] theorem State.ram_setY v : (s.setY v).ram = s.ram := rfl
@[simp] theorem State.addrLatch_setY v : (s.setY v).addrLatch = s.addrLatch := rfl
@[simp] theorem State.dataLatch_setY v : (s.setY v).dataLatch = s.dataLatch := rfl
@[simp] theorem State.platform_setY v : (s.setY v).platform = s.platform := rfl
@[simp] theorem State.cyclesPending_setY v : (s.setY v).cyclesPending = s.cyclesPending := rfl
@[simp] theorem State.ready_setY v : (s.setY v).ready = s.ready := rfl
@[simp] theorem State.tickCount_setY v : (s.setY v).tickCount = s.tickCount := rfl
@[simp] theorem State.poweredOn_setY v : (s.setY v).poweredOn = s.poweredOn := rfl
@[simp] theorem State.runEnded_setY v : (s.setY v).runEnded = s.runEnded := rfl
@[simp] theorem State.inputs_setY v : (s.setY v).inputs = s.inputs := rfl
@[simp] theorem State.transcript_setY v : (s.setY v).transcript = s.transcript := rfl
@[simp] theorem State.flag_setY f v : (s.setY v).flag f = s.flag f := rfl

/-! `setSp` -/
@[simp] theorem State.a_setSp v : (s.setSp v).a = s.a := rfl
@[simp] theorem State.x_setSp v : (s.setSp v).x = s.x := rfl
@[simp] theorem State.y_setSp v : (s.setSp v).y = s.y := rfl
@[simp] theorem State.sp_setSp v : (s.setSp v).sp = v := rfl
@[simp] theorem State.p_setSp v : (s.setSp v).p = s.p := rfl
@[simp] theorem State.pc_setSp v : (s.setSp v).pc = s.pc := rfl
@[simp] theorem State.ram_setSp v : (s.setSp v).ram = s.ram := rfl
@[simp] theorem State.addrLatch_setSp v : (s.setSp v).addrLatch = s.addrLatch := rfl
@[simp] theorem State.dataLatch_setSp v : (s.setSp v).dataLatch = s.dataLatch := rfl
@[simp] theorem State.platform_setSp v : (s.setSp v).platform = s.platform := rfl
@[simp] theorem State.cyclesPending_setSp v : (s.setSp v).cyclesPending = s.cyclesPending := rfl
@[simp] theorem State.ready_setSp v : (s.setSp v).ready = s.ready := rfl
@[simp] theorem State.tickCount_setSp v : (s.setSp v).tickCount = s.tickCount := rfl
@[simp] theorem State.poweredOn_setSp v : (s.setSp v).poweredOn = s.poweredOn := rfl
@[simp] theorem State.runEnded_setSp v : (s.setSp v).runEnded = s.runEnded := rfl
@[simp] theorem State.inputs_setSp v : (s.setSp v).inputs = s.inputs := rfl
@[simp] theorem State.transcript_setSp v : (s.setSp v).transcript = s.transcript := rfl
@[simp] theorem State.flag_setSp f v : (s.setSp v).flag f = s.flag f := rfl

/-! `setP` -/
@[simp] theorem State.a_setP v : (s.setP v).a = s.a := rfl
@[simp] theorem State.x_setP v : (s.setP v).x = s.x := rfl
@[simp] theorem State.y_setP v : (s.setP v).y = s.y := rfl
@[simp] theorem State.sp_setP v : (s.setP v).sp = s.sp := rfl
@[simp] theorem State.p_setP v : (s.setP v).p = v := rfl
@[simp] theorem State.pc_setP v : (s.setP v).pc = s.pc := rfl
@[simp] theorem State.ram_setP v : (s.setP v).ram = s.ram := rfl
@[simp] theorem State.addrLatch_setP v : (s.setP v).addrLatch = s.addrLatch := rfl
@[simp] theorem State.dataLatch_setP v : (s.setP v).dataLatch = s.dataLatch := rfl
@[simp] theorem State.platform_setP v : (s.setP v).platform = s.platform := rfl
@[simp] theorem State.cyclesPending_setP v : (s.setP v).cyclesPending = s.cyclesPending := rfl
@[simp] theorem State.ready_setP v : (s.setP v).ready = s.ready := rfl
@[simp] theorem State.tickCount_setP v : (s.setP v).tickCount = s.tickCount := rfl
@[simp] theorem State.poweredOn_setP v : (s.setP v).poweredOn = s.poweredOn := rfl
@[simp] theorem State.runEnded_setP v : (s.setP v).runEnded = s.runEnded := rfl
@[simp] theorem State.inputs_setP v : (s.setP v).inputs = s.inputs := rfl
@[simp] theorem State.transcript_setP v : (s.setP v).transcript = s.transcript := rfl

/-! `setPc` -/
@[simp] theorem State.a_setPc v : (s.setPc v).a = s.a := rfl
@[simp] theorem State.x_setPc v : (s.setPc v).x = s.x := rfl
@[simp] theorem State.y_setPc v : (s.setPc v).y = s.y := rfl
@[simp] theorem State.sp_setPc v : (s.setPc v).sp = s.sp := rfl
@[simp] theorem State.p_setPc v : (s.setPc v).p = s.p := rfl
@[simp] theorem State.pc_setPc v : (s.setPc v).pc = v := rfl
@[simp] theorem State.ram_setPc v : (s.setPc v).ram = s.ram := rfl
@[simp] theorem State.addrLatch_setPc v : (s.setPc v).addrLatch = s.addrLatch := rfl
@[simp] theorem State.dataLatch_setPc v : (s.setPc v).dataLatch = s.dataLatch := rfl
@[simp] theorem State.platform_setPc v : (s.setPc v).platform = s.platform := rfl
@[simp] theorem State.cyclesPending_setPc v : (s.setPc v).cyclesPending = s.cyclesPending := rfl
@[simp] theorem State.ready_setPc v : (s.setPc v).ready = s.ready := rfl
@[simp] theorem State.tickCount_setPc v : (s.setPc v).tickCount = s.tickCount := rfl
@[simp] theorem State.poweredOn_setPc v : (s.setPc v).poweredOn = s.poweredOn := rfl
@[simp] theorem State.runEnded_setPc v : (s.setPc v).runEnded = s.runEnded := rfl
@[simp] theorem State.inputs_setPc v : (s.setPc v).inputs = s.inputs := rfl
@[simp] theorem State.transcript_setPc v : (s.setPc v).transcript = s.transcript := rfl
@[simp] theorem State.flag_setPc f v : (s.setPc v).flag f = s.flag f := rfl

/-! `setRam` -/
@[simp] theorem State.a_setRam v : (s.setRam v).a = s.a := rfl
@[simp] theorem State.x_setRam v : (s.setRam v).x = s.x := rfl
@[simp] theorem State.y_setRam v : (s.setRam v).y = s.y := rfl
@[simp] theorem State.sp_setRam v : (s.setRam v).sp = s.sp := rfl
@[simp] theorem State.p_setRam v : (s.setRam v).p = s.p := rfl
@[simp] theorem State.pc_setRam v : (s.setRam v).pc = s.pc := rfl
@[simp] theorem State.ram_setRam v : (s.setRam v).ram = v := rfl
@[simp] theorem State.addrLatch_setRam v : (s.setRam v).addrLatch = s.addrLatch := rfl
@[simp] theorem State.dataLatch_setRam v : (s.setRam v).dataLatch = s.dataLatch := rfl
@[simp] theorem State.platform_setRam v : (s.setRam v).platform = s.platform := rfl
@[simp] theorem State.cyclesPending_setRam v : (s.setRam v).cyclesPending = s.cyclesPending := rfl
@[simp] theorem State.ready_setRam v : (s.setRam v).ready = s.ready := rfl
@[simp] theorem State.tickCount_setRam v : (s.setRam v).tickCount = s.tickCount := rfl
@[simp] theorem State.poweredOn_setRam v : (s.setRam v).poweredOn = s.poweredOn := rfl
@[simp] theorem State.runEnded_setRam v : (s.setRam v).runEnded = s.runEnded := rfl
@[simp] theorem State.inputs_setRam v : (s.setRam v).inputs = s.inputs := rfl
@[simp] theorem State.transcript_setRam v : (s.setRam v).transcript = s.transcript := rfl
@[simp] theorem State.flag_setRam f v : (s.setRam v).flag f = s.flag f := rfl

/-! `setAddrLatch` -/
@[simp] theorem State.a_setAddrLatch v : (s.setAddrLatch v).a = s.a := rfl
@[simp] theorem State.x_setAddrLatch v : (s.setAddrLatch v).x = s.x := rfl
@[simp] theorem State.y_setAddrLatch v : (s.setAddrLatch v).y = s.y := rfl
@[simp] theorem State.sp_setAddrLatch v : (s.setAddrLatch v).sp = s.sp := rfl
@[simp] theorem State.p_setAddrLatch v : (s.setAddrLatch v).p = s.p := rfl
@[simp] theorem State.pc_setAddrLatch v : (s.setAddrLatch v).pc = s.pc := rfl
@[simp] theorem State.ram_setAddrLatch v : (s.setAddrLatch v).ram = s.ram := rfl
@[simp] theorem State.addrLatch_setAddrLatch v : (s.setAddrLatch v).addrLatch = v := rfl
@[simp] theorem State.dataLatch_setAddrLatch v : (s.setAddrLatch v).dataLatch = s.dataLatch := rfl
@[simp] theorem State.platform_setAddrLatch v : (s.setAddrLatch v).platform = s.platform := rfl
@[simp] theorem State.cyclesPending_setAddrLatch v : (s.setAddrLatch v).cyclesPending = s.cyclesPending := rfl
@[simp] theorem State.ready_setAddrLatch v : (s.setAddrLatch v).ready = s.ready := rfl
@[simp] theorem State.tickCount_setAddrLatch v : (s.setAddrLatch v).tickCount = s.tickCount := rfl
@[simp] theorem State.poweredOn_setAddrLatch v : (s.setAddrLatch v).poweredOn = s.poweredOn := rfl
@[simp] theorem State.runEnded_setAddrLatch v : (s.setAddrLatch v).runEnded = s.runEnded := rfl
@[simp] theorem State.inputs_setAddrLatch v : (s.setAddrLatch v).inputs = s.inputs := rfl
@[simp] theorem State.transcript_setAddrLatch v : (s.setAddrLatch v).transcript = s.transcript := rfl
@[simp] theorem State.flag_setAddrLatch f v : (s.setAddrLatch v).flag f = s.flag f := rfl

/-! `setDataLatch` -/
@[simp] theorem State.a_setDataLatch v : (s.setDataLatch v).a = s.a := rfl
@[simp] theorem State.x_setDataLatch v : (s.setDataLatch v).x = s.x := rfl
@[simp] theorem State.y_setDataLatch v : (s.setDataLatch v).y = s.y := rfl
@[simp] theorem State.sp_setDataLatch v : (s.setDataLatch v).sp = s.sp := rfl
@[simp] theorem State.p_setDataLatch v : (s.setDataLatch v).p = s.p := rfl
@[simp] theorem State.pc_setDataLatch v : (s.setDataLatch v).pc = s.pc := rfl
@[simp] theorem State.ram_setDataLatch v : (s.setDataLatch v).ram = s.ram := rfl
@[simp] theorem State.addrLatch_setDataLatch v : (s.setDataLatch v).addrLatch = s.addrLatch := rfl
@[simp] theorem State.dataLatch_setDataLatch v : (s.setDataLatch v).dataLatch = v := rfl
@[simp] theorem State.platform_setDataLatch v : (s.setDataLatch v).platform = s.platform := rfl
@[simp] theorem State.cyclesPending_setDataLatch v : (s.setDataLatch v).cyclesPending = s.cyclesPending := rfl
@[simp] theorem State.ready_setDataLatch v : (s.setDataLatch v).ready = s.ready := rfl
@[simp] theorem State.tickCount_setDataLatch v : (s.setDataLatch v).tickCount = s.tickCount := rfl
@[simp] theorem State.poweredOn_setDataLatch v : (s.setDataLatch v).poweredOn = s.poweredOn := rfl
@[simp] theorem State.runEnded_setDataLatch v : (s.setDataLatch v).runEnded = s.runEnded := rfl
@[simp] theorem State.inputs_setDataLatch v : (s.setDataLatch v).inputs = s.inputs := rfl
@[simp] theorem State.transcript_setDataLatch v : (s.setDataLatch v).transcript = s.transcript := rfl
@[simp] theorem State.flag_setDataLatch f v : (s.setDataLatch v).flag f = s.flag f := rfl

/-! `setPlatform` -/
@[simp] theorem State.a_setPlatform v : (s.setPlatform v).a = s.a := rfl
@[simp] theorem State.x_setPlatform v : (s.setPlatform v).x = s.x := rfl
@[simp] theorem State.y_setPlatform v : (s.setPlatform v).y = s.y := rfl
@[simp] theorem State.sp_setPlatform v : (s.setPlatform v).sp = s.sp := rfl
@[simp] theorem State.p_setPlatform v : (s.setPlatform v).p = s.p := rfl
@[simp] theorem State.pc_setPlatform v : (s.setPlatform v).pc = s.pc := rfl
@[simp] theorem State.ram_setPlatform v : (s.setPlatform v).ram = s.ram := rfl
@[simp] theorem State.addrLatch_setPlatform v : (s.setPlatform v).addrLatch = s.addrLatch := rfl
@[simp] theorem State.dataLatch_setPlatform v : (s.setPlatform v).dataLatch = s.dataLatch := rfl
@[simp] theorem State.platform_setPlatform v : (s.setPlatform v).platform = v := rfl
@[simp] theorem State.cyclesPending_setPlatform v : (s.setPlatform v).cyclesPending = s.cyclesPending := rfl
@[simp] theorem State.ready_setPlatform v : (s.setPlatform v).ready = s.ready := rfl
@[simp] theorem State.tickCount_setPlatform v : (s.setPlatform v).tickCount = s.tickCount := rfl
@[simp] theorem State.poweredOn_setPlatform v : (s.setPlatform v).poweredOn = s.poweredOn := rfl
@[simp] theorem State.runEnded_setPlatform v : (s.setPlatform v).runEnded = s.runEnded := rfl
@[simp] theorem State.inputs_setPlatform v : (s.setPlatform v).inputs = s.inputs := rfl
@[simp] theorem State.transcript_setPlatform v : (s.setPlatform v).transcript = s.transcript := rfl
@[simp] theorem State.flag_setPlatform f v : (s.setPlatform v).flag f = s.flag f := rfl

/-! `setCyclesPending` -/
@[simp] theorem State.a_setCyclesPending v : (s.setCyclesPending v).a = s.a := rfl
@[simp] theorem State.x_setCyclesPending v : (s.setCyclesPending v).x = s.x := rfl
@[simp] theorem State.y_setCyclesPending v : (s.setCyclesPending v).y = s.y := rfl
@[simp] theorem State.sp_setCyclesPending v : (s.setCyclesPending v).sp = s.sp := rfl
@[simp] theorem State.p_setCyclesPending v : (s.setCyclesPending v).p = s.p := rfl
@[simp] theorem State.pc_setCyclesPending v : (s.setCyclesPending v).pc = s.pc := rfl
@[simp] theorem State.ram_setCyclesPending v : (s.setCyclesPending v).ram = s.ram := rfl
@[simp] theorem State.addrLatch_setCyclesPending v : (s.setCyclesPending v).addrLatch = s.addrLatch := rfl
@[simp] theorem State.dataLatch_setCyclesPending v : (s.setCyclesPending v).dataLatch = s.dataLatch := rfl
@[simp] theorem State.platform_setCyclesPending v : (s.setCyclesPending v).platform = s.platform := rfl
@[simp] theorem State.cyclesPending_setCyclesPending v : (s.setCyclesPending v).cyclesPending = v := rfl
@[simp] theorem State.ready_setCyclesPending v : (s.setCyclesPending v).ready = s.ready := rfl
@[simp] theorem State.tickCount_setCyclesPending v : (s.setCyclesPending v).tickCount = s.tickCount := rfl
@[simp] theorem State.poweredOn_setCyclesPending v : (s.setCyclesPending v).poweredOn = s.poweredOn := rfl
@[simp] theorem State.runEnded_setCyclesPending v : (s.setCyclesPending v).runEnded = s.runEnded := rfl
@[simp] theorem State.inputs_setCyclesPending v : (s.setCyclesPending v).inputs = s.inputs := rfl
@[simp] theorem State.transcript_setCyclesPending v : (s.setCyclesPending v).transcript = s.transcript := rfl
@[simp] theorem State.flag_setCyclesPending f v : (s.setCyclesPending v).flag f = s.flag f := rfl

/-! `setReady` -/
@[simp] theorem State.a_setReady v : (s.setReady v).a = s.a := rfl
@[simp] theorem State.x_setReady v : (s.setReady v).x = s.x := rfl
@[simp] theorem State.y_setReady v : (s.setReady v).y = s.y := rfl
@[simp] theorem State.sp_setReady v : (s.setReady v).sp = s.sp := rfl
@[simp] theorem State.p_setReady v : (s.setReady v).p = s.p := rfl
@[simp] theorem State.pc_setReady v : (s.setReady v).pc = s.pc := rfl
@[simp] theorem State.ram_setReady v : (s.setReady v).ram = s.ram := rfl
@[simp] theorem State.addrLatch_setReady v : (s.setReady v).addrLatch = s.addrLatch := rfl
@[simp] theorem State.dataLatch_setReady v : (s.setReady v).dataLatch = s.dataLatch := rfl
@[simp] theorem State.platform_setReady v : (s.setReady v).platform = s.platform := rfl
@[simp] theorem State.cyclesPending_setReady v : (s.setReady v).cyclesPending = s.cyclesPending := rfl
@[simp] theorem State.ready_setReady v : (s.setReady v).ready = v := rfl
@[simp] theorem State.tickCount_setReady v : (s.setReady v).tickCount = s.tickCount := rfl
@[simp] theorem State.poweredOn_setReady v : (s.setReady v).poweredOn = s.poweredOn := rfl
@[simp] theorem State.runEnded_setReady v : (s.setReady v).runEnded = s.runEnded := rfl
@[simp] theorem State.inputs_setReady v : (s.setReady v).inputs = s.inputs := rfl
@[simp] theorem State.transcript_setReady v : (s.setReady v).transcript = s.transcript := rfl
@[simp] theorem State.flag_setReady f v : (s.setReady v).flag f = s.flag f := rfl

/-! `setTickCount` -/
@[simp] theorem State.a_setTickCount v : (s.setTickCount v).a = s.a := rfl
@[simp] theorem State.x_setTickCount v : (s.setTickCount v).x = s.x := rfl
@[simp] theorem State.y_setTickCount v : (s.setTickCount v).y = s.y := rfl
@[simp] theorem State.sp_setTickCount v : (s.setTickCount v).sp = s.sp := rfl
@[simp] theorem State.p_setTickCount v : (s.setTickCount v).p = s.p := rfl
@[simp] theorem State.pc_setTickCount v : (s.setTickCount v).pc = s.pc := rfl
@[simp] theorem State.ram_setTickCount v : (s.setTickCount v).ram = s.ram := rfl
@[simp] theorem State.addrLatch_setTickCount v : (s.setTickCount v).addrLatch = s.addrLatch := rfl
@[simp] theorem State.dataLatch_setTickCount v : (s.setTickCount v).dataLatch = s.dataLatch := rfl
@[simp] theorem State.platform_setTickCount v : (s.setTickCount v).platform = s.platform := rfl
@[simp] theorem State.cyclesPending_setTickCount v : (s.setTickCount v).cyclesPending = s.cyclesPending := rfl
@[simp] theorem State.ready_setTickCount v : (s.setTickCount v).ready = s.ready := rfl
@[simp] theorem State.tickCount_setTickCount v : (s.setTickCount v).tickCount = v := rfl
@[simp] theorem State.poweredOn_setTickCount v : (s.setTickCount v).poweredOn = s.poweredOn := rfl
@[simp] theorem State.runEnded_setTickCount v : (s.setTickCount v).runEnded = s.runEnded := rfl
@[simp] theorem State.inputs_setTickCount v : (s.setTickCount v).inputs = s.inputs := rfl
@[simp] theorem State.transcript_setTickCount v : (s.setTickCount v).transcript = s.transcript := rfl
@[simp] theorem State.flag_setTickCount f v : (s.setTickCount v).flag f = s.flag f := rfl

/-! `setPoweredOn` -/
@[simp] theorem State.a_setPoweredOn v : (s.setPoweredOn v).a = s.a := rfl
@[simp] theorem State.x_setPoweredOn v : (s.setPoweredOn v).x = s.x := rfl
@[simp] theorem State.y_setPoweredOn v : (s.setPoweredOn v).y = s.y := rfl
@[simp] theorem State.sp_setPoweredOn v : (s.setPoweredOn v).sp = s.sp := rfl
@[simp] theorem State.p_setPoweredOn v : (s.setPoweredOn v).p = s.p := rfl
@[simp] theorem State.pc_setPoweredOn v : (s.setPoweredOn v).pc = s.pc := rfl
@[simp] theorem State.ram_setPoweredOn v : (s.setPoweredOn v).ram = s.ram := rfl
@[simp] theorem State.addrLatch_setPoweredOn v : (s.setPoweredOn v).addrLatch = s.addrLatch := rfl
@[simp] theorem State.dataLatch_setPoweredOn v : (s.setPoweredOn v).dataLatch = s.dataLatch := rfl
@[simp] theorem State.platform_setPoweredOn v : (s.setPoweredOn v).platform = s.platform := rfl
@[simp] theorem State.cyclesPending_setPoweredOn v : (s.setPoweredOn v).cyclesPending = s.cyclesPending := rfl
@[simp] theorem State.ready_setPoweredOn v : (s.setPoweredOn v).ready = s.ready := rfl
@[simp] theorem State.tickCount_setPoweredOn v : (s.setPoweredOn v).tickCount = s.tickCount := rfl
@[simp] theorem State.poweredOn_setPoweredOn v : (s.setPoweredOn v).poweredOn = v := rfl
@[simp] theorem State.runEnded_setPoweredOn v : (s.setPoweredOn v).runEnded = s.runEnded := rfl
@[simp] theorem State.inputs_setPoweredOn v : (s.setPoweredOn v).inputs = s.inputs := rfl
@[simp] theorem State.transcript_setPoweredOn v : (s.setPoweredOn v).transcript = s.transcript := rfl
@[simp] theorem State.flag_setPoweredOn f v : (s.setPoweredOn v).flag f = s.flag f := rfl

/-! `setRunEnded` -/
@[simp] theorem State.a_setRunEnded v : (s.setRunEnded v).a = s.a := rfl
@[simp] theorem State.x_setRunEnded v : (s.setRunEnded v).x = s.x := rfl
@[simp] theorem State.y_setRunEnded v : (s.setRunEnded v).y = s.y := rfl
@[simp] theorem State.sp_setRunEnded v : (s.setRunEnded v).sp = s.sp := rfl
@[simp] theorem State.p_setRunEnded v : (s.setRunEnded v).p = s.p := rfl
@[simp] theorem State.pc_setRunEnded v : (s.setRunEnded v).pc = s.pc := rfl
@[simp] theorem State.ram_setRunEnded v : (s.setRunEnded v).ram = s.ram := rfl
@[simp] theorem State.addrLatch_setRunEnded v : (s.setRunEnded v).addrLatch = s.addrLatch := rfl
@[simp] theorem State.dataLatch_setRunEnded v : (s.setRunEnded v).dataLatch = s.dataLatch := rfl
@[simp] theorem State.platform_setRunEnded v : (s.setRunEnded v).platform = s.platform := rfl
@[simp] theorem State.cyclesPending_setRunEnded v : (s.setRunEnded v).cyclesPending = s.cyclesPending := rfl
@[simp] theorem State.ready_setRunEnded v : (s.setRunEnded v).ready = s.ready := rfl
@[simp] theorem State.tickCount_setRunEnded v : (s.setRunEnded v).tickCount = s.tickCount := rfl
@[simp] theorem State.poweredOn_setRunEnded v : (s.setRunEnded v).poweredOn = s.poweredOn := rfl
@[simp] theorem State.runEnded_setRunEnded v : (s.setRunEnded v).runEnded = v := rfl
@[simp] theorem State.inputs_setRunEnded v : (s.setRunEnded v).inputs = s.inputs := rfl
@[simp] theorem State.transcript_setRunEnded v : (s.setRunEnded v).transcript = s.transcript := rfl
@[simp] theorem State.flag_setRunEnded f v : (s.setRunEnded v).flag f = s.flag f := rfl

/-! `setInputs` -/
@[simp] theorem State.a_setInputs v : (s.setInputs v).a = s.a := rfl
@[simp] theorem State.x_setInputs v : (s.setInputs v).x = s.x := rfl
@[simp] theorem State.y_setInputs v : (s.setInputs v).y = s.y := rfl
@[simp] theorem State.sp_setInputs v : (s.setInputs v).sp = s.sp := rfl
@[simp] theorem State.p_setInputs v : (s.setInputs v).p = s.p := rfl
@[simp] theorem State.pc_setInputs v : (s.setInputs v).pc = s.pc := rfl
@[simp] theorem State.ram_setInputs v : (s.setInputs v).ram = s.ram := rfl
@[simp] theorem State.addrLatch_setInputs v : (s.setInputs v).addrLatch = s.addrLatch := rfl
@[simp] theorem State.dataLatch_setInputs v : (s.setInputs v).dataLatch = s.dataLatch := rfl
@[simp] theorem State.platform_setInputs v : (s.setInputs v).platform = s.platform := rfl
@[simp] theorem State.cyclesPending_setInputs v : (s.setInputs v).cyclesPending = s.cyclesPending := rfl
@[simp] theorem State.ready_setInputs v : (s.setInputs v).ready = s.ready := rfl
@[simp] theorem State.tickCount_setInputs v : (s.setInputs v).tickCount = s.tickCount := rfl
@[simp] theorem State.poweredOn_setInputs v : (s.setInputs v).poweredOn = s.poweredOn := rfl
@[simp] theorem State.runEnded_setInputs v : (s.setInputs v).runEnded = s.runEnded := rfl
@[simp] theorem State.inputs_setInputs v : (s.setInputs v).inputs = v := rfl
@[simp] theorem State.transcript_setInputs v : (s.setInputs v).transcript = s.transcript := rfl
@[simp] theorem State.flag_setInputs f v : (s.setInputs v).flag f = s.flag f := rfl

/-! `setTranscript` -/
@[simp] theorem State.a_setTranscript v : (s.setTranscript v).a = s.a := rfl
@[simp] theorem State.x_setTranscript v : (s.setTranscript v).x = s.x := rfl
@[simp] theorem State.y_setTranscript v : (s.setTranscript v).y = s.y := rfl
@[simp] theorem State.sp_setTranscript v : (s.setTranscript v).sp = s.sp := rfl
@[simp] theorem State.p_setTranscript v : (s.setTranscript v).p = s.p := rfl
@[simp] theorem State.pc_setTranscript v : (s.setTranscript v).pc = s.pc := rfl
@[simp] theorem State.ram_setTranscript v : (s.setTranscript v).ram = s.ram := rfl
@[simp] theorem State.addrLatch_setTranscript v : (s.setTranscript v).addrLatch = s.addrLatch := rfl
@[simp] theorem State.dataLatch_setTranscript v : (s.setTranscript v).dataLatch = s.dataLatch := rfl
@[simp] theorem State.platform_setTranscript v : (s.setTranscript v).platform = s.platform := rfl
@[simp] theorem State.cyclesPending_setTranscript v : (s.setTranscript v).cyclesPending = s.cyclesPending := rfl
@[simp] theorem State.ready_setTranscript v : (s.setTranscript v).ready = s.ready := rfl
@[simp] theorem State.tickCount_setTranscript v : (s.setTranscript v).tickCount = s.tickCount := rfl
@[simp] theorem State.poweredOn_setTranscript v : (s.setTranscript v).poweredOn = s.poweredOn := rfl
@[simp] theorem State.runEnded_setTranscript v : (s.setTranscript v).runEnded = s.runEnded := rfl
@[simp] theorem State.inputs_setTranscript v : (s.setTranscript v).inputs = s.inputs := rfl
@[simp] theorem State.transcript_setTranscript v : (s.setTranscript v).transcript = v := rfl
@[simp] theorem State.flag_setTranscript f v : (s.setTranscript v).flag f = s.flag f := rfl

@[simp] theorem State.a_setFlag f v : (s.setFlag f v).a = s.a := rfl
@[simp] theorem State.x_setFlag f v : (s.setFlag f v).x = s.x := rfl
@[simp] theorem State.y_setFlag f v : (s.setFlag f v).y = s.y := rfl
@[simp] theorem State.sp_setFlag f v : (s.setFlag f v).sp = s.sp := rfl
@[simp] theorem State.pc_setFlag f v : (s.setFlag f v).pc = s.pc := rfl
@[simp] theorem State.ram_setFlag f v : (s.setFlag f v).ram = s.ram := rfl
@[simp] theorem State.addrLatch_setFlag f v : (s.setFlag f v).addrLatch = s.addrLatch := rfl
@[simp] theorem State.dataLatch_setFlag f v : (s.setFlag f v).dataLatch = s.dataLatch := rfl
@[simp] theorem State.platform_setFlag f v : (s.setFlag f v).platform = s.platform := rfl
@[simp] theorem State.cyclesPending_setFlag f v : (s.setFlag f v).cyclesPending = s.cyclesPending := rfl
@[simp] theorem State.ready_setFlag f v : (s.setFlag f v).ready = s.ready := rfl
@[simp] theorem State.tickCount_setFlag f v : (s.setFlag f v).tickCount = s.tickCount := rfl
@[simp] theorem State.poweredOn_setFlag f v : (s.setFlag f v).poweredOn = s.poweredOn := rfl
@[simp] theorem State.runEnded_setFlag f v : (s.setFlag f v).runEnded = s.runEnded := rfl
@[simp] theorem State.inputs_setFlag f v : (s.setFlag f v).inputs = s.inputs := rfl
@[simp] theorem State.transcript_setFlag f v : (s.setFlag f v).transcript = s.transcript := rfl
@[simp] theorem State.p_setFlag f v : (s.setFlag f v).p = putFlag f v s.p := rfl

@[simp] theorem State.a_setZN v : (s.setZN v).a = s.a := rfl
@[simp] theorem State.x_setZN v : (s.setZN v).x = s.x := rfl
@[simp] theorem State.y_setZN v : (s.setZN v).y = s.y := rfl
@[simp] theorem State.sp_setZN v : (s.setZN v).sp = s.sp := rfl
@[simp] theorem State.pc_setZN v : (s.setZN v).pc = s.pc := rfl
@[simp] theorem State.ram_setZN v : (s.setZN v).ram = s.ram := rfl
@[simp] theorem State.addrLatch_setZN v : (s.setZN v).addrLatch = s.addrLatch := rfl
@[simp] theorem State.dataLatch_setZN v : (s.setZN v).dataLatch = s.dataLatch := rfl
@[simp] theorem State.platform_setZN v : (s.setZN v).platform = s.platform := rfl
@[simp] theorem State.cyclesPending_setZN v : (s.setZN v).cyclesPending = s.cyclesPending := rfl
@[simp] theorem State.ready_setZN v : (s.setZN v).ready = s.ready := rfl
@[simp] theorem State.tickCount_setZN v : (s.setZN v).tickCount = s.tickCount := rfl
@[simp] theorem State.poweredOn_setZN v : (s.setZN v).poweredOn = s.poweredOn := rfl
@[simp] theorem State.runEnded_setZN v : (s.setZN v).runEnded = s.runEnded := rfl
@[simp] theorem State.inputs_setZN v : (s.setZN v).inputs = s.inputs := rfl
@[simp] theorem State.transcript_setZN v : (s.setZN v).transcript = s.transcript := rfl

/-- Two states with equal fields are equal. -/
theorem State.eq_of_fields (t : State) (ha : t.a = s.a) (hx : t.x = s.x) (hy : t.y = s.y)
    (hsp : t.sp = s.sp) (hp : t.p = s.p) (hpc : t.pc = s.pc) (hram : t.ram = s.ram)
    (hal : t.addrLatch = s.addrLatch) (hdl : t.dataLatch = s.dataLatch)
    (hpl : t.platform = s.platform) (hcp : t.cyclesPending = s.cyclesPending)
    (hrd : t.ready = s.ready) (htc : t.tickCount = s.tickCount) (hpo : t.poweredOn = s.poweredOn)
    (hre : t.runEnded = s.runEnded) (hin : t.inputs = s.inputs)
    (htr : t.transcript = s.transcript) : t = s := by
  cases s; cases t; simp_all

end Sys2Proof.Machine
end

