-- ==== Sys2Proof/Laws/Flags.lean ====
section
/-! SUPPORT. What each flag update leaves in each flag, and the arithmetic behind `C` and `V`. -/

namespace Sys2Proof.Machine

theorem Flag.bit_lt (f : Flag) : f.bit < 8 := by cases f <;> decide

theorem Flag.bit_injective {f g : Flag} (h : f.bit = g.bit) : f = g := by
  cases f <;> cases g <;> simp [Flag.bit] at h <;> rfl

/-- Bit `j` of a mask. -/
theorem Flag.getLsbD_mask (f g : Flag) : f.mask.getLsbD g.bit = decide (f = g) := by
  cases f <;> cases g <;> decide

/-- A flag write is seen by that flag and by no other. -/
theorem getLsbD_putFlag (f g : Flag) (v : Bool) (p : Byte) :
    (putFlag f v p).getLsbD g.bit = if f = g then v else p.getLsbD g.bit := by
  have hg := g.bit_lt
  cases v
  · simp only [putFlag, Bool.false_eq_true, if_false, BitVec.getLsbD_and, BitVec.getLsbD_not,
      Flag.getLsbD_mask, hg, decide_true, Bool.true_and]
    split <;> simp_all
  · simp only [putFlag, if_true, BitVec.getLsbD_or, Flag.getLsbD_mask]
    split <;> simp_all

variable (s : State)

@[simp] theorem State.flag_setFlag_same (f : Flag) (v : Bool) : (s.setFlag f v).flag f = v := by
  simp [State.flag, getLsbD_putFlag]

theorem State.flag_setFlag_ne {f g : Flag} (v : Bool) (h : f ≠ g) :
    (s.setFlag f v).flag g = s.flag g := by
  simp [State.flag, getLsbD_putFlag, h]

/-- A flag after a flag write, both cases in one. -/
theorem State.flag_setFlag (f g : Flag) (v : Bool) :
    (s.setFlag f v).flag g = if f = g then v else s.flag g := by
  simp [State.flag, getLsbD_putFlag]

theorem State.flag_setP (f : Flag) (v : Byte) : (s.setP v).flag f = v.getLsbD f.bit := rfl

@[simp] theorem State.flag_z_setZN (v : Byte) : (s.setZN v).flag .z = (v == 0#8) := by
  simp [State.setZN, State.flag_setFlag]

@[simp] theorem State.flag_n_setZN (v : Byte) : (s.setZN v).flag .n = v.getLsbD 7 := by
  simp [State.setZN]

/-- `SetZN` writes `Z` and `N` only. -/
theorem State.flag_setZN_ne {f : Flag} (v : Byte) (hz : f ≠ .z) (hn : f ≠ .n) :
    (s.setZN v).flag f = s.flag f := by
  simp [State.setZN, State.flag_setFlag, hz.symm, hn.symm]

/-- `P` is its eight flags. -/
theorem status_ext {p q : Byte} (h : ∀ f : Flag, p.getLsbD f.bit = q.getLsbD f.bit) : p = q := by
  apply BitVec.eq_of_getLsbD_eq
  intro i hi
  have := h .c; have := h .z; have := h .i; have := h .d
  have := h .b; have := h .u; have := h .v; have := h .n
  match i, hi with
  | 0, _ | 1, _ | 2, _ | 3, _ | 4, _ | 5, _ | 6, _ | 7, _ => assumption

/-- PHP's and BRK's byte: bits 4 and 5 set, the rest of `P`. -/
theorem getLsbD_pushedStatus (p : Byte) (f : Flag) :
    (pushedStatus p).getLsbD f.bit = (p.getLsbD f.bit || decide (f = .b) || decide (f = .u)) := by
  cases f <;> simp [pushedStatus, Flag.bit]

/-- PLP's status: bits 4 and 5 clear, the rest of the byte. -/
theorem getLsbD_maskedStatus (v : Byte) (f : Flag) :
    (maskedStatus v).getLsbD f.bit = (v.getLsbD f.bit && !decide (f = .b) && !decide (f = .u)) := by
  cases f <;> simp [maskedStatus, Flag.bit]

/-- The sum never exceeds 511 (R160). -/
theorem addSum_le (a m : Byte) (c : Bool) : addSum a m c ≤ 511 := by
  unfold addSum carryNat
  have := a.isLt; have := m.isLt
  split <;> omega

/-- The result is the sum modulo 256 (R160). -/
theorem toNat_addResult (a m : Byte) (c : Bool) : (addResult a m c).toNat = addSum a m c % 256 := by
  simp [addResult]

end Sys2Proof.Machine
end

