-- ==== Sys2Proof/Laws/Memory.lean ====
section
/-! SUPPORT. The backing array: read after write, and that every write keeps the canonical form. -/

namespace Sys2Proof.Machine

/-- A write leaves every other index alone, in any list. -/
theorem Memory.get_set_ne {j k : Nat} (h : j ≠ k) (v : Byte) (m : Memory) :
    Memory.get (Memory.set m j v) k = Memory.get m k := by
  induction m with
  | nil => simp [Memory.set, Memory.get, h]
  | cons c rest ih =>
    obtain ⟨i, w⟩ := c
    simp only [Memory.set]
    split
    · simp [Memory.get, h]
    · split
      · next e => subst e; simp [Memory.get, h]
      · simp only [Memory.get, ih]

/-- Read after write of the same index. -/
theorem Memory.get_set_same (m : Memory) (j : Nat) (v : Byte) : Memory.get (Memory.set m j v) j = v := by
  induction m with
  | nil => simp [Memory.set, Memory.get]
  | cons c rest ih =>
    obtain ⟨i, w⟩ := c
    simp only [Memory.set]
    split
    · simp [Memory.get]
    · split
      · simp [Memory.get]
      · next hne => rw [Memory.get, if_neg (fun e => hne e.symm), ih]

/-- Read after write, every index. -/
theorem Memory.get_set (m : Memory) (j k : Nat) (v : Byte) :
    Memory.get (Memory.set m j v) k = if j = k then v else Memory.get m k := by
  split
  · next e => subst e; exact Memory.get_set_same m j v
  · next e => exact Memory.get_set_ne e v m

theorem Memory.above_of_lt {m : Memory} {i j : Nat} (h : i ≤ j) (ha : Memory.above j m = true) :
    Memory.above i m = true := by
  cases m with
  | nil => rfl
  | cons c _ => obtain ⟨k, _⟩ := c; simp [Memory.above] at ha ⊢; omega

theorem Memory.above_set {m : Memory} {i j : Nat} (hij : i < j) (v : Byte)
    (ha : Memory.above i m = true) : Memory.above i (Memory.set m j v) = true := by
  cases m with
  | nil => simp [Memory.set, Memory.above, hij]
  | cons c rest =>
    obtain ⟨k, w⟩ := c
    have hk : i < k := by simpa [Memory.above] using ha
    simp only [Memory.set]
    split
    · simp [Memory.above, hij]
    · split <;> simp [Memory.above, hij, hk]

/-- Every write of a byte of the array keeps the canonical form. -/
theorem Memory.set_wf {m : Memory} (hm : Memory.wf m = true) {j : Nat} (hj : j < 65536) (v : Byte) :
    Memory.wf (Memory.set m j v) = true := by
  induction m with
  | nil => simp [Memory.set, Memory.wf, Memory.above, hj]
  | cons c rest ih =>
    obtain ⟨k, w⟩ := c
    have hw := hm
    simp only [Memory.wf, Bool.and_eq_true, decide_eq_true_eq] at hm
    simp only [Memory.set]
    split
    · next hlt => simp only [Memory.wf, Memory.above, Bool.and_eq_true, decide_eq_true_eq]; exact ⟨⟨hj, hlt⟩, hm⟩
    · split
      · next e => subst e; simp [Memory.wf, hm]
      · next h1 h2 =>
        have : Memory.above k (Memory.set rest j v) = true := Memory.above_set (by omega) v hm.1.2
        simp [Memory.wf, hm, this, ih hm.2]

/-- `load`'s write keeps the canonical form. -/
theorem Memory.setAll_wf {m : Memory} (vs : List Byte) {j : Nat} (hm : Memory.wf m = true)
    (hj : j + vs.length ≤ 65536) : Memory.wf (Memory.setAll m j vs) = true := by
  induction vs generalizing m j with
  | nil => exact hm
  | cons v vs ih =>
    simp only [List.length_cons] at hj
    exact ih (Memory.set_wf hm (by omega) v) (by omega)

/-- `load`'s write leaves the indices outside its range alone. -/
theorem Memory.get_setAll_ne {m : Memory} (vs : List Byte) {j k : Nat}
    (h : k < j ∨ j + vs.length ≤ k) : Memory.get (Memory.setAll m j vs) k = Memory.get m k := by
  induction vs generalizing m j with
  | nil => rfl
  | cons v vs ih =>
    simp only [List.length_cons] at h
    rw [Memory.setAll, ih (by omega), Memory.get_set_ne (by omega)]

/-- `load` puts its `n`-th byte at index `start + n`. -/
theorem Memory.get_setAll {m : Memory} (vs : List Byte) {j n : Nat} (hn : n < vs.length) :
    Memory.get (Memory.setAll m j vs) (j + n) = vs[n] := by
  induction vs generalizing m j n with
  | nil => simp at hn
  | cons v vs ih =>
    simp only [List.length_cons] at hn
    cases n with
    | zero =>
      simp only [Nat.add_zero, Memory.setAll, List.getElem_cons_zero]
      rw [Memory.get_setAll_ne (k := j) vs (by omega)]
      exact Memory.get_set_same m j v
    | succ n =>
      have := ih (m := Memory.set m j v) (j := j + 1) (n := n) (by omega)
      rw [Memory.setAll, show j + (n + 1) = j + 1 + n by omega, this]
      rfl

end Sys2Proof.Machine
end

