-- ==== Sys2Proof/Laws/Bus.lean ====
section
/-! SUPPORT. Everything a bus read, a bus write, a push and a pull can do, and the resolvers, which only read. -/

namespace Sys2Proof.Machine

/-! ## Reads -/

/-- The first answer wins, and the calls made are put on top of the transcript (R58). -/
theorem askReaders_transcript (fs : List ReadInterceptor) (a : Addr) (m : Memory) (tr : List Event) :
    ∃ evs, (askReaders fs a m tr).2 = evs ++ tr := by
  induction fs generalizing tr with
  | nil => exact ⟨[], rfl⟩
  | cons f fs ih =>
    cases f with
    | flatMem => exact ⟨[], rfl⟩
    | fixed cells =>
      simp only [askReaders]
      split
      · exact ⟨[], rfl⟩
      · exact ih tr
    | external id =>
      simp only [askReaders]
      split
      · exact ⟨[_], rfl⟩
      · next h =>
        obtain ⟨evs, he⟩ := ih (.readAsked id a none :: tr)
        exact ⟨evs ++ [.readAsked id a none], by simp [he]⟩

theorem State.answer_transcript (a : Addr) (s : State) :
    ∃ evs, (s.answer a).2 = evs ++ s.transcript := by
  unfold State.answer
  split
  · exact ⟨[], rfl⟩
  · exact askReaders_transcript _ _ _ _

/-- `t` is `s` after bus reads: the latches moved, calls were added to the transcript, and nothing else
changed. -/
def State.readsTo (s t : State) : Prop :=
  ∃ al dl evs, t = ((s.setTranscript (evs ++ s.transcript)).setAddrLatch al).setDataLatch dl

theorem State.readsTo.refl (s : State) : s.readsTo s := ⟨s.addrLatch, s.dataLatch, [], rfl⟩

theorem State.readsTo.trans {s t u : State} (h : s.readsTo t) (k : t.readsTo u) : s.readsTo u := by
  obtain ⟨al, dl, evs, rfl⟩ := h
  obtain ⟨al', dl', evs', rfl⟩ := k
  exact ⟨al', dl', evs' ++ evs, by simp [State.setTranscript, State.setAddrLatch, State.setDataLatch]⟩

/-- What a read of the bus does (R58, R61). -/
theorem State.busRead_readsTo (a : Addr) (s : State) : s.readsTo (s.busRead a).2 := by
  obtain ⟨evs, h⟩ := s.answer_transcript a
  exact ⟨a, _, evs, by rw [State.busRead, h]⟩

theorem State.readPair_readsTo (lo hi : Addr) (s : State) : s.readsTo (s.readPair lo hi).2 :=
  (s.busRead_readsTo lo).trans (State.busRead_readsTo hi _)

/-- A resolver writes no register, no flag and no memory (R113). -/
theorem State.place_readsTo (o : Operand) (s : State) : s.readsTo (s.place o).2 := by
  cases o with
  | ind w => exact s.readPair_readsTo _ _
  | izx z => exact s.readPair_readsTo _ _
  | izy z => exact s.readPair_readsTo _ _
  | _ => exact State.readsTo.refl s

theorem State.readPlace_readsTo (pl : Place) (s : State) : s.readsTo (s.readPlace pl).2 := by
  cases pl with
  | mem ea c => exact s.busRead_readsTo ea
  | _ => exact State.readsTo.refl s

theorem State.operand_readsTo (o : Operand) (s : State) : s.readsTo (s.operand o).2 :=
  (s.place_readsTo o).trans (State.readPlace_readsTo _ _)

theorem State.readsTo.a_eq {s t : State} (h : s.readsTo t) : t.a = s.a := by
  obtain ⟨_, _, _, rfl⟩ := h; rfl
theorem State.readsTo.x_eq {s t : State} (h : s.readsTo t) : t.x = s.x := by
  obtain ⟨_, _, _, rfl⟩ := h; rfl
theorem State.readsTo.y_eq {s t : State} (h : s.readsTo t) : t.y = s.y := by
  obtain ⟨_, _, _, rfl⟩ := h; rfl
theorem State.readsTo.sp_eq {s t : State} (h : s.readsTo t) : t.sp = s.sp := by
  obtain ⟨_, _, _, rfl⟩ := h; rfl
theorem State.readsTo.p_eq {s t : State} (h : s.readsTo t) : t.p = s.p := by
  obtain ⟨_, _, _, rfl⟩ := h; rfl
theorem State.readsTo.pc_eq {s t : State} (h : s.readsTo t) : t.pc = s.pc := by
  obtain ⟨_, _, _, rfl⟩ := h; rfl
theorem State.readsTo.ram_eq {s t : State} (h : s.readsTo t) : t.ram = s.ram := by
  obtain ⟨_, _, _, rfl⟩ := h; rfl
theorem State.readsTo.platform_eq {s t : State} (h : s.readsTo t) : t.platform = s.platform := by
  obtain ⟨_, _, _, rfl⟩ := h; rfl
theorem State.readsTo.cyclesPending_eq {s t : State} (h : s.readsTo t) : t.cyclesPending = s.cyclesPending := by
  obtain ⟨_, _, _, rfl⟩ := h; rfl
theorem State.readsTo.ready_eq {s t : State} (h : s.readsTo t) : t.ready = s.ready := by
  obtain ⟨_, _, _, rfl⟩ := h; rfl
theorem State.readsTo.tickCount_eq {s t : State} (h : s.readsTo t) : t.tickCount = s.tickCount := by
  obtain ⟨_, _, _, rfl⟩ := h; rfl
theorem State.readsTo.poweredOn_eq {s t : State} (h : s.readsTo t) : t.poweredOn = s.poweredOn := by
  obtain ⟨_, _, _, rfl⟩ := h; rfl
theorem State.readsTo.runEnded_eq {s t : State} (h : s.readsTo t) : t.runEnded = s.runEnded := by
  obtain ⟨_, _, _, rfl⟩ := h; rfl
theorem State.readsTo.inputs_eq {s t : State} (h : s.readsTo t) : t.inputs = s.inputs := by
  obtain ⟨_, _, _, rfl⟩ := h; rfl
theorem State.readsTo.flag_eq {s t : State} (h : s.readsTo t) (f : Flag) : t.flag f = s.flag f := by
  obtain ⟨_, _, _, rfl⟩ := h; rfl

variable (s : State)

@[simp] theorem State.a_busRead (a : Addr) : (s.busRead a).2.a = s.a := (s.busRead_readsTo a).a_eq
@[simp] theorem State.x_busRead (a : Addr) : (s.busRead a).2.x = s.x := (s.busRead_readsTo a).x_eq
@[simp] theorem State.y_busRead (a : Addr) : (s.busRead a).2.y = s.y := (s.busRead_readsTo a).y_eq
@[simp] theorem State.sp_busRead (a : Addr) : (s.busRead a).2.sp = s.sp := (s.busRead_readsTo a).sp_eq
@[simp] theorem State.p_busRead (a : Addr) : (s.busRead a).2.p = s.p := (s.busRead_readsTo a).p_eq
@[simp] theorem State.pc_busRead (a : Addr) : (s.busRead a).2.pc = s.pc := (s.busRead_readsTo a).pc_eq
@[simp] theorem State.ram_busRead (a : Addr) : (s.busRead a).2.ram = s.ram := (s.busRead_readsTo a).ram_eq
@[simp] theorem State.platform_busRead (a : Addr) : (s.busRead a).2.platform = s.platform := (s.busRead_readsTo a).platform_eq
@[simp] theorem State.cyclesPending_busRead (a : Addr) : (s.busRead a).2.cyclesPending = s.cyclesPending := (s.busRead_readsTo a).cyclesPending_eq
@[simp] theorem State.ready_busRead (a : Addr) : (s.busRead a).2.ready = s.ready := (s.busRead_readsTo a).ready_eq
@[simp] theorem State.tickCount_busRead (a : Addr) : (s.busRead a).2.tickCount = s.tickCount := (s.busRead_readsTo a).tickCount_eq
@[simp] theorem State.poweredOn_busRead (a : Addr) : (s.busRead a).2.poweredOn = s.poweredOn := (s.busRead_readsTo a).poweredOn_eq
@[simp] theorem State.runEnded_busRead (a : Addr) : (s.busRead a).2.runEnded = s.runEnded := (s.busRead_readsTo a).runEnded_eq
@[simp] theorem State.inputs_busRead (a : Addr) : (s.busRead a).2.inputs = s.inputs := (s.busRead_readsTo a).inputs_eq
@[simp] theorem State.flag_busRead (a : Addr) f : (s.busRead a).2.flag f = s.flag f := (s.busRead_readsTo a).flag_eq f
@[simp] theorem State.a_readPair (lo hi : Addr) : (s.readPair lo hi).2.a = s.a := (s.readPair_readsTo lo hi).a_eq
@[simp] theorem State.x_readPair (lo hi : Addr) : (s.readPair lo hi).2.x = s.x := (s.readPair_readsTo lo hi).x_eq
@[simp] theorem State.y_readPair (lo hi : Addr) : (s.readPair lo hi).2.y = s.y := (s.readPair_readsTo lo hi).y_eq
@[simp] theorem State.sp_readPair (lo hi : Addr) : (s.readPair lo hi).2.sp = s.sp := (s.readPair_readsTo lo hi).sp_eq
@[simp] theorem State.p_readPair (lo hi : Addr) : (s.readPair lo hi).2.p = s.p := (s.readPair_readsTo lo hi).p_eq
@[simp] theorem State.pc_readPair (lo hi : Addr) : (s.readPair lo hi).2.pc = s.pc := (s.readPair_readsTo lo hi).pc_eq
@[simp] theorem State.ram_readPair (lo hi : Addr) : (s.readPair lo hi).2.ram = s.ram := (s.readPair_readsTo lo hi).ram_eq
@[simp] theorem State.platform_readPair (lo hi : Addr) : (s.readPair lo hi).2.platform = s.platform := (s.readPair_readsTo lo hi).platform_eq
@[simp] theorem State.cyclesPending_readPair (lo hi : Addr) : (s.readPair lo hi).2.cyclesPending = s.cyclesPending := (s.readPair_readsTo lo hi).cyclesPending_eq
@[simp] theorem State.ready_readPair (lo hi : Addr) : (s.readPair lo hi).2.ready = s.ready := (s.readPair_readsTo lo hi).ready_eq
@[simp] theorem State.tickCount_readPair (lo hi : Addr) : (s.readPair lo hi).2.tickCount = s.tickCount := (s.readPair_readsTo lo hi).tickCount_eq
@[simp] theorem State.poweredOn_readPair (lo hi : Addr) : (s.readPair lo hi).2.poweredOn = s.poweredOn := (s.readPair_readsTo lo hi).poweredOn_eq
@[simp] theorem State.runEnded_readPair (lo hi : Addr) : (s.readPair lo hi).2.runEnded = s.runEnded := (s.readPair_readsTo lo hi).runEnded_eq
@[simp] theorem State.inputs_readPair (lo hi : Addr) : (s.readPair lo hi).2.inputs = s.inputs := (s.readPair_readsTo lo hi).inputs_eq
@[simp] theorem State.flag_readPair (lo hi : Addr) f : (s.readPair lo hi).2.flag f = s.flag f := (s.readPair_readsTo lo hi).flag_eq f
@[simp] theorem State.a_place (o : Operand) : (s.place o).2.a = s.a := (s.place_readsTo o).a_eq
@[simp] theorem State.x_place (o : Operand) : (s.place o).2.x = s.x := (s.place_readsTo o).x_eq
@[simp] theorem State.y_place (o : Operand) : (s.place o).2.y = s.y := (s.place_readsTo o).y_eq
@[simp] theorem State.sp_place (o : Operand) : (s.place o).2.sp = s.sp := (s.place_readsTo o).sp_eq
@[simp] theorem State.p_place (o : Operand) : (s.place o).2.p = s.p := (s.place_readsTo o).p_eq
@[simp] theorem State.pc_place (o : Operand) : (s.place o).2.pc = s.pc := (s.place_readsTo o).pc_eq
@[simp] theorem State.ram_place (o : Operand) : (s.place o).2.ram = s.ram := (s.place_readsTo o).ram_eq
@[simp] theorem State.platform_place (o : Operand) : (s.place o).2.platform = s.platform := (s.place_readsTo o).platform_eq
@[simp] theorem State.cyclesPending_place (o : Operand) : (s.place o).2.cyclesPending = s.cyclesPending := (s.place_readsTo o).cyclesPending_eq
@[simp] theorem State.ready_place (o : Operand) : (s.place o).2.ready = s.ready := (s.place_readsTo o).ready_eq
@[simp] theorem State.tickCount_place (o : Operand) : (s.place o).2.tickCount = s.tickCount := (s.place_readsTo o).tickCount_eq
@[simp] theorem State.poweredOn_place (o : Operand) : (s.place o).2.poweredOn = s.poweredOn := (s.place_readsTo o).poweredOn_eq
@[simp] theorem State.runEnded_place (o : Operand) : (s.place o).2.runEnded = s.runEnded := (s.place_readsTo o).runEnded_eq
@[simp] theorem State.inputs_place (o : Operand) : (s.place o).2.inputs = s.inputs := (s.place_readsTo o).inputs_eq
@[simp] theorem State.flag_place (o : Operand) f : (s.place o).2.flag f = s.flag f := (s.place_readsTo o).flag_eq f
@[simp] theorem State.a_operand (o : Operand) : (s.operand o).2.a = s.a := (s.operand_readsTo o).a_eq
@[simp] theorem State.x_operand (o : Operand) : (s.operand o).2.x = s.x := (s.operand_readsTo o).x_eq
@[simp] theorem State.y_operand (o : Operand) : (s.operand o).2.y = s.y := (s.operand_readsTo o).y_eq
@[simp] theorem State.sp_operand (o : Operand) : (s.operand o).2.sp = s.sp := (s.operand_readsTo o).sp_eq
@[simp] theorem State.p_operand (o : Operand) : (s.operand o).2.p = s.p := (s.operand_readsTo o).p_eq
@[simp] theorem State.pc_operand (o : Operand) : (s.operand o).2.pc = s.pc := (s.operand_readsTo o).pc_eq
@[simp] theorem State.ram_operand (o : Operand) : (s.operand o).2.ram = s.ram := (s.operand_readsTo o).ram_eq
@[simp] theorem State.platform_operand (o : Operand) : (s.operand o).2.platform = s.platform := (s.operand_readsTo o).platform_eq
@[simp] theorem State.cyclesPending_operand (o : Operand) : (s.operand o).2.cyclesPending = s.cyclesPending := (s.operand_readsTo o).cyclesPending_eq
@[simp] theorem State.ready_operand (o : Operand) : (s.operand o).2.ready = s.ready := (s.operand_readsTo o).ready_eq
@[simp] theorem State.tickCount_operand (o : Operand) : (s.operand o).2.tickCount = s.tickCount := (s.operand_readsTo o).tickCount_eq
@[simp] theorem State.poweredOn_operand (o : Operand) : (s.operand o).2.poweredOn = s.poweredOn := (s.operand_readsTo o).poweredOn_eq
@[simp] theorem State.runEnded_operand (o : Operand) : (s.operand o).2.runEnded = s.runEnded := (s.operand_readsTo o).runEnded_eq
@[simp] theorem State.inputs_operand (o : Operand) : (s.operand o).2.inputs = s.inputs := (s.operand_readsTo o).inputs_eq
@[simp] theorem State.flag_operand (o : Operand) f : (s.operand o).2.flag f = s.flag f := (s.operand_readsTo o).flag_eq f

@[simp] theorem State.addrLatch_busRead (a : Addr) : (s.busRead a).2.addrLatch = a := rfl
@[simp] theorem State.dataLatch_busRead (a : Addr) : (s.busRead a).2.dataLatch = (s.busRead a).1 := rfl

/-- A read below 0x2000 gives the mirrored cell and calls nobody (R55, R56, R58). -/
theorem State.busRead_ram {a : Addr} (h : isRam a = true) :
    (s.busRead a).1 = Memory.get s.ram (ramIndex a) ∧ (s.busRead a).2.transcript = s.transcript := by
  simp [State.busRead, State.answer, h]

/-- With FlatMem first on the list, a read from 0x2000 up gives the array's byte (R74). -/
theorem State.busRead_flat {a : Addr} (h : isRam a = false)
    (hf : s.platform.readInterceptors.head? = some .flatMem) :
    (s.busRead a).1 = Memory.get s.ram a.toNat ∧ (s.busRead a).2.transcript = s.transcript := by
  cases e : s.platform.readInterceptors with
  | nil => simp [e] at hf
  | cons f fs =>
    simp only [e, List.head?_cons, Option.some.injEq] at hf
    subst hf
    simp [State.busRead, State.answer, h, e, askReaders]

/-! ## Writes -/

theorem tellWriters_spec (gs : List WriteInterceptor) (a : Addr) (v : Byte) (m : Memory)
    (tr : List Event) :
    (Memory.wf m = true → Memory.wf (tellWriters gs a v m tr).1 = true) ∧
    (∀ k, ¬ (gs.contains .flatMem = true ∧ a.toNat = k) →
      Memory.get (tellWriters gs a v m tr).1 k = Memory.get m k) ∧
    (gs.contains .flatMem = true →
      Memory.get (tellWriters gs a v m tr).1 a.toNat = v) ∧
    (∃ evs, (tellWriters gs a v m tr).2 = evs ++ tr) := by
  induction gs generalizing m tr with
  | nil => exact ⟨id, fun _ _ => rfl, by simp, [], rfl⟩
  | cons g gs ih =>
    cases g with
    | flatMem =>
      obtain ⟨h1, h2, h3, h4⟩ := ih (Memory.set m a.toNat v) tr
      simp only [tellWriters]
      refine ⟨fun hm => h1 (Memory.set_wf hm a.isLt v), fun k hk => ?_, fun _ => ?_, h4⟩
      · have hne : a.toNat ≠ k := fun e => hk ⟨by simp, e⟩
        rw [h2 k (fun hc => hne hc.2), Memory.get_set_ne hne]
      · by_cases hc : gs.contains .flatMem = true
        · exact h3 hc
        · rw [h2 _ (fun h => hc h.1), Memory.get_set_same]
    | external id =>
      obtain ⟨h1, h2, h3, evs, h4⟩ := ih m (.writeTold id a v :: tr)
      have hc : (WriteInterceptor.external id :: gs).contains .flatMem = gs.contains .flatMem := by
        rw [List.contains_cons]; rfl
      simp only [tellWriters]
      rw [hc]
      exact ⟨h1, h2, h3, evs ++ [.writeTold id a v], by simp [h4]⟩

theorem ramIndex_lt (a : Addr) : ramIndex a < 0x800 := Nat.mod_lt _ (by decide)

/-- A bus write leaves every cell but the one it stores at (R60). -/
theorem State.get_busWrite_ne {a : Addr} {k : Nat} (v : Byte) (h : s.storeIndex a ≠ some k) :
    Memory.get (s.busWrite a v).ram k = Memory.get s.ram k := by
  simp only [State.busWrite, State.stored, State.ram_setDataLatch, State.ram_setAddrLatch,
    State.ram_setTranscript, State.ram_setRam]
  unfold State.storeIndex at h
  split
  · next hr => exact Memory.get_set_ne (by simpa [hr] using h) v _
  · next hr =>
    refine (tellWriters_spec _ _ _ _ _).2.1 k (fun hc => h ?_)
    rw [if_neg hr, if_pos hc.1, hc.2]

/-- A bus write puts its byte into the cell it stores at (R60, R74). -/
theorem State.get_busWrite_same {a : Addr} {k : Nat} (v : Byte) (h : s.storeIndex a = some k) :
    Memory.get (s.busWrite a v).ram k = v := by
  simp only [State.busWrite, State.stored, State.ram_setDataLatch, State.ram_setAddrLatch,
    State.ram_setTranscript, State.ram_setRam]
  unfold State.storeIndex at h
  split
  · next hr =>
    simp only [hr, if_true, Option.some.injEq] at h
    subst h
    exact Memory.get_set_same _ _ v
  · next hr =>
    rw [if_neg hr] at h
    split at h
    · next hc =>
      simp only [Option.some.injEq] at h
      subst h
      exact (tellWriters_spec _ _ _ _ _).2.2.1 hc
    · cases h

/-- A bus write keeps the canonical form. -/
theorem State.busWrite_wf (a : Addr) (v : Byte) (hm : Memory.wf s.ram = true) :
    Memory.wf (s.busWrite a v).ram = true := by
  simp only [State.busWrite, State.stored, State.ram_setDataLatch, State.ram_setAddrLatch,
    State.ram_setTranscript, State.ram_setRam]
  split
  · exact Memory.set_wf hm (by have := ramIndex_lt a; omega) v
  · exact (tellWriters_spec _ _ _ _ _).1 hm

@[simp] theorem State.a_busWrite (a : Addr) (v : Byte) : (s.busWrite a v).a = s.a := rfl
@[simp] theorem State.x_busWrite (a : Addr) (v : Byte) : (s.busWrite a v).x = s.x := rfl
@[simp] theorem State.y_busWrite (a : Addr) (v : Byte) : (s.busWrite a v).y = s.y := rfl
@[simp] theorem State.sp_busWrite (a : Addr) (v : Byte) : (s.busWrite a v).sp = s.sp := rfl
@[simp] theorem State.p_busWrite (a : Addr) (v : Byte) : (s.busWrite a v).p = s.p := rfl
@[simp] theorem State.pc_busWrite (a : Addr) (v : Byte) : (s.busWrite a v).pc = s.pc := rfl
@[simp] theorem State.platform_busWrite (a : Addr) (v : Byte) : (s.busWrite a v).platform = s.platform := rfl
@[simp] theorem State.cyclesPending_busWrite (a : Addr) (v : Byte) : (s.busWrite a v).cyclesPending = s.cyclesPending := rfl
@[simp] theorem State.ready_busWrite (a : Addr) (v : Byte) : (s.busWrite a v).ready = s.ready := rfl
@[simp] theorem State.tickCount_busWrite (a : Addr) (v : Byte) : (s.busWrite a v).tickCount = s.tickCount := rfl
@[simp] theorem State.poweredOn_busWrite (a : Addr) (v : Byte) : (s.busWrite a v).poweredOn = s.poweredOn := rfl
@[simp] theorem State.runEnded_busWrite (a : Addr) (v : Byte) : (s.busWrite a v).runEnded = s.runEnded := rfl
@[simp] theorem State.inputs_busWrite (a : Addr) (v : Byte) : (s.busWrite a v).inputs = s.inputs := rfl
@[simp] theorem State.flag_busWrite (a : Addr) (v : Byte) f : (s.busWrite a v).flag f = s.flag f := rfl
@[simp] theorem State.addrLatch_busWrite (a : Addr) (v : Byte) : (s.busWrite a v).addrLatch = a := rfl
@[simp] theorem State.dataLatch_busWrite (a : Addr) (v : Byte) : (s.busWrite a v).dataLatch = v := rfl
@[simp] theorem State.storeIndex_busWrite (a b : Addr) (v : Byte) : (s.busWrite a v).storeIndex b = s.storeIndex b := rfl

/-! ## The stack -/

@[simp] theorem State.a_push (v : Byte) : (s.push v).a = s.a := rfl
@[simp] theorem State.x_push (v : Byte) : (s.push v).x = s.x := rfl
@[simp] theorem State.y_push (v : Byte) : (s.push v).y = s.y := rfl
@[simp] theorem State.p_push (v : Byte) : (s.push v).p = s.p := rfl
@[simp] theorem State.pc_push (v : Byte) : (s.push v).pc = s.pc := rfl
@[simp] theorem State.platform_push (v : Byte) : (s.push v).platform = s.platform := rfl
@[simp] theorem State.cyclesPending_push (v : Byte) : (s.push v).cyclesPending = s.cyclesPending := rfl
@[simp] theorem State.ready_push (v : Byte) : (s.push v).ready = s.ready := rfl
@[simp] theorem State.tickCount_push (v : Byte) : (s.push v).tickCount = s.tickCount := rfl
@[simp] theorem State.poweredOn_push (v : Byte) : (s.push v).poweredOn = s.poweredOn := rfl
@[simp] theorem State.runEnded_push (v : Byte) : (s.push v).runEnded = s.runEnded := rfl
@[simp] theorem State.inputs_push (v : Byte) : (s.push v).inputs = s.inputs := rfl
@[simp] theorem State.flag_push (v : Byte) f : (s.push v).flag f = s.flag f := rfl
@[simp] theorem State.sp_push (v : Byte) : (s.push v).sp = s.sp - 1#8 := rfl

@[simp] theorem State.a_pull : s.pull.2.a = s.a := (State.busRead_readsTo _ _).a_eq
@[simp] theorem State.x_pull : s.pull.2.x = s.x := (State.busRead_readsTo _ _).x_eq
@[simp] theorem State.y_pull : s.pull.2.y = s.y := (State.busRead_readsTo _ _).y_eq
@[simp] theorem State.p_pull : s.pull.2.p = s.p := (State.busRead_readsTo _ _).p_eq
@[simp] theorem State.pc_pull : s.pull.2.pc = s.pc := (State.busRead_readsTo _ _).pc_eq
@[simp] theorem State.platform_pull : s.pull.2.platform = s.platform := (State.busRead_readsTo _ _).platform_eq
@[simp] theorem State.cyclesPending_pull : s.pull.2.cyclesPending = s.cyclesPending := (State.busRead_readsTo _ _).cyclesPending_eq
@[simp] theorem State.ready_pull : s.pull.2.ready = s.ready := (State.busRead_readsTo _ _).ready_eq
@[simp] theorem State.tickCount_pull : s.pull.2.tickCount = s.tickCount := (State.busRead_readsTo _ _).tickCount_eq
@[simp] theorem State.poweredOn_pull : s.pull.2.poweredOn = s.poweredOn := (State.busRead_readsTo _ _).poweredOn_eq
@[simp] theorem State.runEnded_pull : s.pull.2.runEnded = s.runEnded := (State.busRead_readsTo _ _).runEnded_eq
@[simp] theorem State.inputs_pull : s.pull.2.inputs = s.inputs := (State.busRead_readsTo _ _).inputs_eq
@[simp] theorem State.ram_pull : s.pull.2.ram = s.ram := (State.busRead_readsTo _ _).ram_eq
@[simp] theorem State.flag_pull f : s.pull.2.flag f = s.flag f := rfl
@[simp] theorem State.sp_pull : s.pull.2.sp = s.sp + 1#8 := rfl

/-- The stack never leaves page 0x01 (R24). -/
theorem toNat_stackAddr (sp : Byte) : (stackAddr sp).toNat = 0x100 + sp.toNat := by
  have h : ∀ b : Byte, (join 0x01#8 b).toNat = 0x100 + b.toNat := by decide
  exact h sp

theorem isRam_stackAddr (sp : Byte) : isRam (stackAddr sp) = true := by
  have := sp.isLt
  simp only [isRam, toNat_stackAddr, decide_eq_true_eq]
  omega

theorem ramIndex_stackAddr (sp : Byte) : ramIndex (stackAddr sp) = 0x100 + sp.toNat := by
  have := sp.isLt
  simp only [ramIndex, toNat_stackAddr]
  omega

/-- Where a push stores (R24). -/
theorem State.storeIndex_stackAddr (sp : Byte) :
    s.storeIndex (stackAddr sp) = some (0x100 + sp.toNat) := by
  simp [State.storeIndex, isRam_stackAddr, ramIndex_stackAddr]

/-- What a push leaves in each cell (R24). -/
theorem State.get_push (v : Byte) (k : Nat) :
    Memory.get (s.push v).ram k = if 0x100 + s.sp.toNat = k then v else Memory.get s.ram k := by
  have e : (s.push v).ram = (s.busWrite (stackAddr s.sp) v).ram := rfl
  rw [e]
  split
  · next h => exact s.get_busWrite_same v (h ▸ s.storeIndex_stackAddr s.sp)
  · next h => exact s.get_busWrite_ne v (by rw [s.storeIndex_stackAddr]; simpa using h)

/-- A push leaves every cell but its own (R24). -/
theorem State.get_push_ne {k : Nat} (v : Byte) (h : 0x100 + s.sp.toNat ≠ k) :
    Memory.get (s.push v).ram k = Memory.get s.ram k :=
  s.get_busWrite_ne v (by rw [s.storeIndex_stackAddr]; simpa using h)

/-- The stack is RAM: a push calls nobody. -/
@[simp] theorem State.transcript_push (v : Byte) : (s.push v).transcript = s.transcript := by
  simp [State.push, State.busWrite, State.stored, isRam_stackAddr]

/-- The stack is RAM: a pull calls nobody. -/
@[simp] theorem State.transcript_pull : s.pull.2.transcript = s.transcript :=
  (State.busRead_ram _ (isRam_stackAddr _)).2

theorem State.push_wf (v : Byte) (hm : Memory.wf s.ram = true) : Memory.wf (s.push v).ram = true :=
  s.busWrite_wf _ v hm

/-- What a pull gives (R24). -/
theorem State.pull_value : s.pull.1 = Memory.get s.ram (0x100 + (s.sp + 1#8).toNat) := by
  have := (State.busRead_ram (s.setSp (s.sp + 1#8)) (isRam_stackAddr (s.sp + 1#8))).1
  rw [State.pull, this, ramIndex_stackAddr]
  rfl

end Sys2Proof.Machine
end

