-- ==== Sys2Proof/Laws/Trap.lean ====
section
/-! SUPPORT. Fields after the stack's word operations, the trap and its return, write-back and jump; and what the trap stores. -/

namespace Sys2Proof.Machine

variable (s : State)

/-! `pushWord` -/
@[simp] theorem State.a_pushWord (w : Addr) : (s.pushWord w).a = s.a := by simp [State.pushWord]
@[simp] theorem State.x_pushWord (w : Addr) : (s.pushWord w).x = s.x := by simp [State.pushWord]
@[simp] theorem State.y_pushWord (w : Addr) : (s.pushWord w).y = s.y := by simp [State.pushWord]
@[simp] theorem State.sp_pushWord (w : Addr) : (s.pushWord w).sp = s.sp - 2#8 := by
  simp only [State.pushWord, State.sp_push, BitVec.sub_sub]; rfl
@[simp] theorem State.p_pushWord (w : Addr) : (s.pushWord w).p = s.p := by simp [State.pushWord]
@[simp] theorem State.pc_pushWord (w : Addr) : (s.pushWord w).pc = s.pc := by simp [State.pushWord]
@[simp] theorem State.platform_pushWord (w : Addr) : (s.pushWord w).platform = s.platform := by simp [State.pushWord]
@[simp] theorem State.cyclesPending_pushWord (w : Addr) : (s.pushWord w).cyclesPending = s.cyclesPending := by simp [State.pushWord]
@[simp] theorem State.ready_pushWord (w : Addr) : (s.pushWord w).ready = s.ready := by simp [State.pushWord]
@[simp] theorem State.tickCount_pushWord (w : Addr) : (s.pushWord w).tickCount = s.tickCount := by simp [State.pushWord]
@[simp] theorem State.poweredOn_pushWord (w : Addr) : (s.pushWord w).poweredOn = s.poweredOn := by simp [State.pushWord]
@[simp] theorem State.runEnded_pushWord (w : Addr) : (s.pushWord w).runEnded = s.runEnded := by simp [State.pushWord]
@[simp] theorem State.inputs_pushWord (w : Addr) : (s.pushWord w).inputs = s.inputs := by simp [State.pushWord]
@[simp] theorem State.transcript_pushWord (w : Addr) : (s.pushWord w).transcript = s.transcript := by
  simp [State.pushWord]
theorem State.pushWord_wf (w : Addr) (hm : Memory.wf s.ram = true) : Memory.wf (s.pushWord w).ram = true :=
  State.push_wf _ _ (s.push_wf _ hm)
@[simp] theorem State.flag_pushWord (w : Addr) f : (s.pushWord w).flag f = s.flag f := by simp [State.pushWord]

/-! `pullWord` -/
@[simp] theorem State.a_pullWord : (s.pullWord).2.a = s.a := by simp [State.pullWord]
@[simp] theorem State.x_pullWord : (s.pullWord).2.x = s.x := by simp [State.pullWord]
@[simp] theorem State.y_pullWord : (s.pullWord).2.y = s.y := by simp [State.pullWord]
@[simp] theorem State.sp_pullWord : (s.pullWord).2.sp = s.sp + 2#8 := by
  simp only [State.pullWord, State.sp_pull, BitVec.add_assoc]; rfl
@[simp] theorem State.p_pullWord : (s.pullWord).2.p = s.p := by simp [State.pullWord]
@[simp] theorem State.pc_pullWord : (s.pullWord).2.pc = s.pc := by simp [State.pullWord]
@[simp] theorem State.platform_pullWord : (s.pullWord).2.platform = s.platform := by simp [State.pullWord]
@[simp] theorem State.cyclesPending_pullWord : (s.pullWord).2.cyclesPending = s.cyclesPending := by simp [State.pullWord]
@[simp] theorem State.ready_pullWord : (s.pullWord).2.ready = s.ready := by simp [State.pullWord]
@[simp] theorem State.tickCount_pullWord : (s.pullWord).2.tickCount = s.tickCount := by simp [State.pullWord]
@[simp] theorem State.poweredOn_pullWord : (s.pullWord).2.poweredOn = s.poweredOn := by simp [State.pullWord]
@[simp] theorem State.runEnded_pullWord : (s.pullWord).2.runEnded = s.runEnded := by simp [State.pullWord]
@[simp] theorem State.inputs_pullWord : (s.pullWord).2.inputs = s.inputs := by simp [State.pullWord]
@[simp] theorem State.ram_pullWord : (s.pullWord).2.ram = s.ram := by simp [State.pullWord]
@[simp] theorem State.transcript_pullWord : s.pullWord.2.transcript = s.transcript := by
  simp [State.pullWord]
@[simp] theorem State.flag_pullWord f : s.pullWord.2.flag f = s.flag f := by simp [State.pullWord]

/-! `takeBreak` (R236, R253) -/
@[simp] theorem State.a_takeBreak : (s.takeBreak).a = s.a := by simp [State.takeBreak]
@[simp] theorem State.x_takeBreak : (s.takeBreak).x = s.x := by simp [State.takeBreak]
@[simp] theorem State.y_takeBreak : (s.takeBreak).y = s.y := by simp [State.takeBreak]
@[simp] theorem State.sp_takeBreak : (s.takeBreak).sp = s.sp - 3#8 := by
  simp only [State.takeBreak, State.sp_setPc, State.sp_readPair, State.sp_setFlag, State.sp_push,
    State.sp_pushWord, BitVec.sub_sub]; rfl
@[simp] theorem State.p_takeBreak : (s.takeBreak).p = putFlag .i true s.p := by simp [State.takeBreak]
@[simp] theorem State.platform_takeBreak : (s.takeBreak).platform = s.platform := by simp [State.takeBreak]
@[simp] theorem State.cyclesPending_takeBreak : (s.takeBreak).cyclesPending = s.cyclesPending := by simp [State.takeBreak]
@[simp] theorem State.ready_takeBreak : (s.takeBreak).ready = s.ready := by simp [State.takeBreak]
@[simp] theorem State.tickCount_takeBreak : (s.takeBreak).tickCount = s.tickCount := by simp [State.takeBreak]
@[simp] theorem State.poweredOn_takeBreak : (s.takeBreak).poweredOn = s.poweredOn := by simp [State.takeBreak]
@[simp] theorem State.runEnded_takeBreak : (s.takeBreak).runEnded = s.runEnded := by simp [State.takeBreak]
@[simp] theorem State.inputs_takeBreak : (s.takeBreak).inputs = s.inputs := by simp [State.takeBreak]
theorem State.ram_takeBreak :
    s.takeBreak.ram = ((s.pushWord (s.pc + 1#16)).push (pushedStatus s.p)).ram := by
  simp [State.takeBreak]

/-! `returnFromBreak` (R237, R256) -/
@[simp] theorem State.a_returnFromBreak : (s.returnFromBreak).a = s.a := by simp [State.returnFromBreak]
@[simp] theorem State.x_returnFromBreak : (s.returnFromBreak).x = s.x := by simp [State.returnFromBreak]
@[simp] theorem State.y_returnFromBreak : (s.returnFromBreak).y = s.y := by simp [State.returnFromBreak]
@[simp] theorem State.sp_returnFromBreak : (s.returnFromBreak).sp = s.sp + 3#8 := by
  simp only [State.returnFromBreak, State.sp_setPc, State.sp_pullWord, State.sp_setP, State.sp_pull,
    BitVec.add_assoc]; rfl
@[simp] theorem State.p_returnFromBreak : (s.returnFromBreak).p = s.pull.1 := by simp [State.returnFromBreak]
@[simp] theorem State.platform_returnFromBreak : (s.returnFromBreak).platform = s.platform := by simp [State.returnFromBreak]
@[simp] theorem State.cyclesPending_returnFromBreak : (s.returnFromBreak).cyclesPending = s.cyclesPending := by simp [State.returnFromBreak]
@[simp] theorem State.ready_returnFromBreak : (s.returnFromBreak).ready = s.ready := by simp [State.returnFromBreak]
@[simp] theorem State.tickCount_returnFromBreak : (s.returnFromBreak).tickCount = s.tickCount := by simp [State.returnFromBreak]
@[simp] theorem State.poweredOn_returnFromBreak : (s.returnFromBreak).poweredOn = s.poweredOn := by simp [State.returnFromBreak]
@[simp] theorem State.runEnded_returnFromBreak : (s.returnFromBreak).runEnded = s.runEnded := by simp [State.returnFromBreak]
@[simp] theorem State.inputs_returnFromBreak : (s.returnFromBreak).inputs = s.inputs := by simp [State.returnFromBreak]
@[simp] theorem State.ram_returnFromBreak : (s.returnFromBreak).ram = s.ram := by simp [State.returnFromBreak]

/-! `jumpTo` -/
@[simp] theorem State.a_jumpTo (pl : Place) : (s.jumpTo pl).a = s.a := by cases pl <;> rfl
@[simp] theorem State.x_jumpTo (pl : Place) : (s.jumpTo pl).x = s.x := by cases pl <;> rfl
@[simp] theorem State.y_jumpTo (pl : Place) : (s.jumpTo pl).y = s.y := by cases pl <;> rfl
@[simp] theorem State.sp_jumpTo (pl : Place) : (s.jumpTo pl).sp = s.sp := by cases pl <;> rfl
@[simp] theorem State.p_jumpTo (pl : Place) : (s.jumpTo pl).p = s.p := by cases pl <;> rfl
@[simp] theorem State.platform_jumpTo (pl : Place) : (s.jumpTo pl).platform = s.platform := by cases pl <;> rfl
@[simp] theorem State.cyclesPending_jumpTo (pl : Place) : (s.jumpTo pl).cyclesPending = s.cyclesPending := by cases pl <;> rfl
@[simp] theorem State.ready_jumpTo (pl : Place) : (s.jumpTo pl).ready = s.ready := by cases pl <;> rfl
@[simp] theorem State.tickCount_jumpTo (pl : Place) : (s.jumpTo pl).tickCount = s.tickCount := by cases pl <;> rfl
@[simp] theorem State.poweredOn_jumpTo (pl : Place) : (s.jumpTo pl).poweredOn = s.poweredOn := by cases pl <;> rfl
@[simp] theorem State.runEnded_jumpTo (pl : Place) : (s.jumpTo pl).runEnded = s.runEnded := by cases pl <;> rfl
@[simp] theorem State.inputs_jumpTo (pl : Place) : (s.jumpTo pl).inputs = s.inputs := by cases pl <;> rfl
@[simp] theorem State.ram_jumpTo (pl : Place) : (s.jumpTo pl).ram = s.ram := by cases pl <;> rfl
@[simp] theorem State.flag_jumpTo (pl : Place) f : (s.jumpTo pl).flag f = s.flag f := by cases pl <;> rfl

/-! `writeBack` (R131) -/
@[simp] theorem State.x_writeBack (pl : Place) (v : Byte) : (s.writeBack pl v).x = s.x := by cases pl <;> rfl
@[simp] theorem State.y_writeBack (pl : Place) (v : Byte) : (s.writeBack pl v).y = s.y := by cases pl <;> rfl
@[simp] theorem State.sp_writeBack (pl : Place) (v : Byte) : (s.writeBack pl v).sp = s.sp := by cases pl <;> rfl
@[simp] theorem State.p_writeBack (pl : Place) (v : Byte) : (s.writeBack pl v).p = s.p := by cases pl <;> rfl
@[simp] theorem State.pc_writeBack (pl : Place) (v : Byte) : (s.writeBack pl v).pc = s.pc := by cases pl <;> rfl
@[simp] theorem State.platform_writeBack (pl : Place) (v : Byte) : (s.writeBack pl v).platform = s.platform := by cases pl <;> rfl
@[simp] theorem State.cyclesPending_writeBack (pl : Place) (v : Byte) : (s.writeBack pl v).cyclesPending = s.cyclesPending := by cases pl <;> rfl
@[simp] theorem State.ready_writeBack (pl : Place) (v : Byte) : (s.writeBack pl v).ready = s.ready := by cases pl <;> rfl
@[simp] theorem State.tickCount_writeBack (pl : Place) (v : Byte) : (s.writeBack pl v).tickCount = s.tickCount := by cases pl <;> rfl
@[simp] theorem State.poweredOn_writeBack (pl : Place) (v : Byte) : (s.writeBack pl v).poweredOn = s.poweredOn := by cases pl <;> rfl
@[simp] theorem State.runEnded_writeBack (pl : Place) (v : Byte) : (s.writeBack pl v).runEnded = s.runEnded := by cases pl <;> rfl
@[simp] theorem State.inputs_writeBack (pl : Place) (v : Byte) : (s.writeBack pl v).inputs = s.inputs := by cases pl <;> rfl
@[simp] theorem State.flag_writeBack (pl : Place) (v : Byte) f : (s.writeBack pl v).flag f = s.flag f := by cases pl <;> rfl

/-! ## Bytes and words -/

theorem toNat_join (h l : Byte) : (join h l).toNat = 256 * h.toNat + l.toNat := by
  have h1 := h.isLt
  have h2 := l.isLt
  unfold join
  rw [BitVec.toNat_append, ← Nat.shiftLeft_add_eq_or_of_lt (by omega), Nat.shiftLeft_eq]
  omega

theorem toNat_hiByte (w : Addr) : (hiByte w).toNat = w.toNat / 256 := by
  have := w.isLt
  simp only [hiByte, BitVec.toNat_setWidth, BitVec.toNat_ushiftRight, Nat.shiftRight_eq_div_pow]
  omega

theorem toNat_loByte (w : Addr) : (loByte w).toNat = w.toNat % 256 := by
  simp [loByte]

@[simp] theorem join_hiByte_loByte (w : Addr) : join (hiByte w) (loByte w) = w := by
  apply BitVec.eq_of_toNat_eq
  rw [toNat_join, toNat_hiByte, toNat_loByte]
  omega

@[simp] theorem hiByte_join (h l : Byte) : hiByte (join h l) = h := by
  have := l.isLt
  apply BitVec.eq_of_toNat_eq
  rw [toNat_hiByte, toNat_join]
  omega

@[simp] theorem loByte_join (h l : Byte) : loByte (join h l) = l := by
  have := l.isLt
  apply BitVec.eq_of_toNat_eq
  rw [toNat_loByte, toNat_join]
  omega

theorem toNat_zext16 (b : Byte) : (zext16 b).toNat = b.toNat := by simp [zext16, toNat_join]

end Sys2Proof.Machine
end

