-- ==== Sys2Proof/Laws/Commute.lean ====
section
/-! SUPPORT. The operations over the bus and the stack look at neither `P` nor the gate: they commute with writing either. -/

namespace Sys2Proof.Machine

/-- The gate's three fields, written together. -/
def State.setGate (n : Nat) (r : Bool) (k : Nat) (s : State) : State :=
  ((s.setCyclesPending n).setReady r).setTickCount k

variable (s : State) (q : Byte) (n k : Nat) (r : Bool)

/-! ## `P` -/

theorem State.setP_setP (v : Byte) : (s.setP v).setP q = s.setP q := rfl
theorem State.setFlag_eq_setP (f : Flag) (v : Bool) : s.setFlag f v = s.setP (putFlag f v s.p) := rfl
theorem State.setFlag_setP (f : Flag) (v : Bool) :
    (s.setP q).setFlag f v = (s.setFlag f v).setP (putFlag f v q) := rfl
theorem State.setPc_setP (w : Addr) : (s.setP q).setPc w = (s.setPc w).setP q := rfl
theorem State.busRead_setP (a : Addr) :
    (s.setP q).busRead a = ((s.busRead a).1, (s.busRead a).2.setP q) := rfl
theorem State.busWrite_setP (a : Addr) (v : Byte) :
    (s.setP q).busWrite a v = (s.busWrite a v).setP q := rfl
theorem State.readPair_setP (lo hi : Addr) :
    (s.setP q).readPair lo hi = ((s.readPair lo hi).1, (s.readPair lo hi).2.setP q) := by
  simp only [State.readPair, State.busRead_setP]
theorem State.push_setP (v : Byte) : (s.setP q).push v = (s.push v).setP q := rfl
theorem State.pushWord_setP (w : Addr) : (s.setP q).pushWord w = (s.pushWord w).setP q := by
  simp only [State.pushWord, State.push_setP]
theorem State.pull_setP : (s.setP q).pull = (s.pull.1, s.pull.2.setP q) := rfl
theorem State.pullWord_setP : (s.setP q).pullWord = (s.pullWord.1, s.pullWord.2.setP q) := by
  simp only [State.pullWord, State.pull_setP]
theorem State.place_setP (o : Operand) :
    (s.setP q).place o = ((s.place o).1, (s.place o).2.setP q) := by
  cases o <;> rfl
theorem State.readPlace_setP (pl : Place) :
    (s.setP q).readPlace pl = ((s.readPlace pl).1, (s.readPlace pl).2.setP q) := by
  cases pl <;> rfl
theorem State.operand_setP (o : Operand) :
    (s.setP q).operand o = ((s.operand o).1, (s.operand o).2.setP q) := by
  simp only [State.operand, State.place_setP, State.readPlace_setP]
theorem State.writeBack_setP (pl : Place) (v : Byte) :
    (s.setP q).writeBack pl v = (s.writeBack pl v).setP q := by
  cases pl <;> rfl
theorem State.jumpTo_setP (pl : Place) : (s.setP q).jumpTo pl = (s.jumpTo pl).setP q := by
  cases pl <;> rfl
/-- The trap's status goes to the stack and to `I` only (R236). -/
theorem State.takeBreak_setP (h : pushedStatus q = pushedStatus s.p) :
    (s.setP q).takeBreak = s.takeBreak.setP (putFlag .i true q) := by
  simp only [State.takeBreak, State.p_setP, State.pc_setP, h, State.pushWord_setP, State.push_setP,
    State.setFlag_setP, State.readPair_setP, State.setPc_setP]
/-- The return does not look at the status it replaces (R237). -/
theorem State.returnFromBreak_setP : (s.setP q).returnFromBreak = s.returnFromBreak := by
  simp only [State.returnFromBreak, State.pull_setP, State.setP_setP]

/-! ## The gate -/

theorem State.setP_setGate (v : Byte) : (s.setGate n r k).setP v = (s.setP v).setGate n r k := rfl
theorem State.setFlag_setGate (f : Flag) (v : Bool) :
    (s.setGate n r k).setFlag f v = (s.setFlag f v).setGate n r k := rfl
theorem State.setPc_setGate (w : Addr) : (s.setGate n r k).setPc w = (s.setPc w).setGate n r k := rfl
theorem State.busRead_setGate (a : Addr) :
    (s.setGate n r k).busRead a = ((s.busRead a).1, (s.busRead a).2.setGate n r k) := rfl
theorem State.readPair_setGate (lo hi : Addr) :
    (s.setGate n r k).readPair lo hi = ((s.readPair lo hi).1, (s.readPair lo hi).2.setGate n r k) := by
  simp only [State.readPair, State.busRead_setGate]
theorem State.push_setGate (v : Byte) : (s.setGate n r k).push v = (s.push v).setGate n r k := rfl
theorem State.pushWord_setGate (w : Addr) :
    (s.setGate n r k).pushWord w = (s.pushWord w).setGate n r k := by
  simp only [State.pushWord, State.push_setGate]
theorem State.pull_setGate : (s.setGate n r k).pull = (s.pull.1, s.pull.2.setGate n r k) := rfl
theorem State.pullWord_setGate :
    (s.setGate n r k).pullWord = (s.pullWord.1, s.pullWord.2.setGate n r k) := by
  simp only [State.pullWord, State.pull_setGate]
theorem State.place_setGate (o : Operand) :
    (s.setGate n r k).place o = ((s.place o).1, (s.place o).2.setGate n r k) := by
  cases o <;> rfl
theorem State.readPlace_setGate (pl : Place) :
    (s.setGate n r k).readPlace pl = ((s.readPlace pl).1, (s.readPlace pl).2.setGate n r k) := by
  cases pl <;> rfl
theorem State.operand_setGate (o : Operand) :
    (s.setGate n r k).operand o = ((s.operand o).1, (s.operand o).2.setGate n r k) := by
  simp only [State.operand, State.place_setGate, State.readPlace_setGate]
theorem State.writeBack_setGate (pl : Place) (v : Byte) :
    (s.setGate n r k).writeBack pl v = (s.writeBack pl v).setGate n r k := by
  cases pl <;> rfl
theorem State.jumpTo_setGate (pl : Place) :
    (s.setGate n r k).jumpTo pl = (s.jumpTo pl).setGate n r k := by
  cases pl <;> rfl

end Sys2Proof.Machine
end

