-- ==== Sys2Proof/Laws/PerInstr.lean ====
section
/-! SUPPORT. Facts about every instruction as syntax, one lemma per constructor. -/

namespace Sys2Proof.Laws.WellFormedHasOpcode

/-- The table by mnemonic (R97) has an opcode for exactly the well-formed instructions. -/
def Statement (i : Instr) : Prop := i.wellFormed = (opcodeOf i).isSome

theorem lda (o : Operand) : Statement (.lda o) := by cases o <;> rfl
theorem ldx (o : Operand) : Statement (.ldx o) := by cases o <;> rfl
theorem ldy (o : Operand) : Statement (.ldy o) := by cases o <;> rfl
theorem sta (o : Operand) : Statement (.sta o) := by cases o <;> rfl
theorem stx (o : Operand) : Statement (.stx o) := by cases o <;> rfl
theorem sty (o : Operand) : Statement (.sty o) := by cases o <;> rfl
theorem tax : Statement .tax := rfl
theorem tay : Statement .tay := rfl
theorem txa : Statement .txa := rfl
theorem tya : Statement .tya := rfl
theorem tsx : Statement .tsx := rfl
theorem txs : Statement .txs := rfl
theorem adc (o : Operand) : Statement (.adc o) := by cases o <;> rfl
theorem sbc (o : Operand) : Statement (.sbc o) := by cases o <;> rfl
theorem cmp (o : Operand) : Statement (.cmp o) := by cases o <;> rfl
theorem cpx (o : Operand) : Statement (.cpx o) := by cases o <;> rfl
theorem cpy (o : Operand) : Statement (.cpy o) := by cases o <;> rfl
theorem inc (o : Operand) : Statement (.inc o) := by cases o <;> rfl
theorem dec (o : Operand) : Statement (.dec o) := by cases o <;> rfl
theorem inx : Statement .inx := rfl
theorem iny : Statement .iny := rfl
theorem dex : Statement .dex := rfl
theorem dey : Statement .dey := rfl
theorem and (o : Operand) : Statement (.and o) := by cases o <;> rfl
theorem ora (o : Operand) : Statement (.ora o) := by cases o <;> rfl
theorem eor (o : Operand) : Statement (.eor o) := by cases o <;> rfl
theorem bit (o : Operand) : Statement (.bit o) := by cases o <;> rfl
theorem asl (o : Operand) : Statement (.asl o) := by cases o <;> rfl
theorem lsr (o : Operand) : Statement (.lsr o) := by cases o <;> rfl
theorem rol (o : Operand) : Statement (.rol o) := by cases o <;> rfl
theorem ror (o : Operand) : Statement (.ror o) := by cases o <;> rfl
theorem bcc (off : Byte) : Statement (.bcc off) := rfl
theorem bcs (off : Byte) : Statement (.bcs off) := rfl
theorem beq (off : Byte) : Statement (.beq off) := rfl
theorem bmi (off : Byte) : Statement (.bmi off) := rfl
theorem bne (off : Byte) : Statement (.bne off) := rfl
theorem bpl (off : Byte) : Statement (.bpl off) := rfl
theorem bvc (off : Byte) : Statement (.bvc off) := rfl
theorem bvs (off : Byte) : Statement (.bvs off) := rfl
theorem jmp (o : Operand) : Statement (.jmp o) := by cases o <;> rfl
theorem jsr (o : Operand) : Statement (.jsr o) := by cases o <;> rfl
theorem rts : Statement .rts := rfl
theorem pha : Statement .pha := rfl
theorem php : Statement .php := rfl
theorem pla : Statement .pla := rfl
theorem plp : Statement .plp := rfl
theorem clc : Statement .clc := rfl
theorem sec : Statement .sec := rfl
theorem cli : Statement .cli := rfl
theorem sei : Statement .sei := rfl
theorem cld : Statement .cld := rfl
theorem sed : Statement .sed := rfl
theorem clv : Statement .clv := rfl
theorem nop : Statement .nop := rfl
theorem brk : Statement .brk := rfl
theorem rti : Statement .rti := rfl
theorem unassigned (op : Byte) : Statement (.unassigned op) := by
  simp only [Statement, Instr.wellFormed, opcodeOf]; split <;> simp_all

end Sys2Proof.Laws.WellFormedHasOpcode

namespace Sys2Proof.Laws.EncodeLength

/-- The encoding of an instruction has the length its table entry's mode gives (R92), and its entry's
base cycle count lies between 2 and 7 (R291). -/
def Statement (i : Instr) : Prop :=
  ∀ e, entryOf i = some e → (encode i).length = e.length ∧ 2 ≤ e.cycles ∧ e.cycles ≤ 7

/-- The entry of an unassigned byte (R96). -/
theorem entryAt_unassigned : ∀ b : Byte, unassignedBytes.contains b = true →
    (entryAt b).length = 1 ∧ (entryAt b).cycles = 2 := by decide

/-- The lemma every constructor but `unassigned` uses: its opcode is a literal. -/
theorem of_opcode {i : Instr} {b : Byte} (h : opcodeOf i = some b)
    (hl : (b :: i.operandBytes).length = (entryAt b).length)
    (hc : 2 ≤ (entryAt b).cycles ∧ (entryAt b).cycles ≤ 7) : Statement i := by
  intro e he
  simp only [entryOf, h, Option.map_some, Option.some.injEq] at he
  subst he
  simp only [encode, h]
  exact ⟨hl, hc⟩

/-- A term outside the table has no entry. -/
theorem of_none {i : Instr} (h : opcodeOf i = none) : Statement i := by
  intro e he
  simp [entryOf, h] at he

theorem lda (o : Operand) : Statement (.lda o) := by
  cases o <;> first | exact of_none rfl | exact of_opcode rfl rfl (by decide)
theorem ldx (o : Operand) : Statement (.ldx o) := by
  cases o <;> first | exact of_none rfl | exact of_opcode rfl rfl (by decide)
theorem ldy (o : Operand) : Statement (.ldy o) := by
  cases o <;> first | exact of_none rfl | exact of_opcode rfl rfl (by decide)
theorem sta (o : Operand) : Statement (.sta o) := by
  cases o <;> first | exact of_none rfl | exact of_opcode rfl rfl (by decide)
theorem stx (o : Operand) : Statement (.stx o) := by
  cases o <;> first | exact of_none rfl | exact of_opcode rfl rfl (by decide)
theorem sty (o : Operand) : Statement (.sty o) := by
  cases o <;> first | exact of_none rfl | exact of_opcode rfl rfl (by decide)
theorem tax : Statement .tax := of_opcode rfl rfl (by decide)
theorem tay : Statement .tay := of_opcode rfl rfl (by decide)
theorem txa : Statement .txa := of_opcode rfl rfl (by decide)
theorem tya : Statement .tya := of_opcode rfl rfl (by decide)
theorem tsx : Statement .tsx := of_opcode rfl rfl (by decide)
theorem txs : Statement .txs := of_opcode rfl rfl (by decide)
theorem adc (o : Operand) : Statement (.adc o) := by
  cases o <;> first | exact of_none rfl | exact of_opcode rfl rfl (by decide)
theorem sbc (o : Operand) : Statement (.sbc o) := by
  cases o <;> first | exact of_none rfl | exact of_opcode rfl rfl (by decide)
theorem cmp (o : Operand) : Statement (.cmp o) := by
  cases o <;> first | exact of_none rfl | exact of_opcode rfl rfl (by decide)
theorem cpx (o : Operand) : Statement (.cpx o) := by
  cases o <;> first | exact of_none rfl | exact of_opcode rfl rfl (by decide)
theorem cpy (o : Operand) : Statement (.cpy o) := by
  cases o <;> first | exact of_none rfl | exact of_opcode rfl rfl (by decide)
theorem inc (o : Operand) : Statement (.inc o) := by
  cases o <;> first | exact of_none rfl | exact of_opcode rfl rfl (by decide)
theorem dec (o : Operand) : Statement (.dec o) := by
  cases o <;> first | exact of_none rfl | exact of_opcode rfl rfl (by decide)
theorem inx : Statement .inx := of_opcode rfl rfl (by decide)
theorem iny : Statement .iny := of_opcode rfl rfl (by decide)
theorem dex : Statement .dex := of_opcode rfl rfl (by decide)
theorem dey : Statement .dey := of_opcode rfl rfl (by decide)
theorem and (o : Operand) : Statement (.and o) := by
  cases o <;> first | exact of_none rfl | exact of_opcode rfl rfl (by decide)
theorem ora (o : Operand) : Statement (.ora o) := by
  cases o <;> first | exact of_none rfl | exact of_opcode rfl rfl (by decide)
theorem eor (o : Operand) : Statement (.eor o) := by
  cases o <;> first | exact of_none rfl | exact of_opcode rfl rfl (by decide)
theorem bit (o : Operand) : Statement (.bit o) := by
  cases o <;> first | exact of_none rfl | exact of_opcode rfl rfl (by decide)
theorem asl (o : Operand) : Statement (.asl o) := by
  cases o <;> first | exact of_none rfl | exact of_opcode rfl rfl (by decide)
theorem lsr (o : Operand) : Statement (.lsr o) := by
  cases o <;> first | exact of_none rfl | exact of_opcode rfl rfl (by decide)
theorem rol (o : Operand) : Statement (.rol o) := by
  cases o <;> first | exact of_none rfl | exact of_opcode rfl rfl (by decide)
theorem ror (o : Operand) : Statement (.ror o) := by
  cases o <;> first | exact of_none rfl | exact of_opcode rfl rfl (by decide)
theorem bcc (off : Byte) : Statement (.bcc off) := of_opcode rfl rfl (by decide)
theorem bcs (off : Byte) : Statement (.bcs off) := of_opcode rfl rfl (by decide)
theorem beq (off : Byte) : Statement (.beq off) := of_opcode rfl rfl (by decide)
theorem bmi (off : Byte) : Statement (.bmi off) := of_opcode rfl rfl (by decide)
theorem bne (off : Byte) : Statement (.bne off) := of_opcode rfl rfl (by decide)
theorem bpl (off : Byte) : Statement (.bpl off) := of_opcode rfl rfl (by decide)
theorem bvc (off : Byte) : Statement (.bvc off) := of_opcode rfl rfl (by decide)
theorem bvs (off : Byte) : Statement (.bvs off) := of_opcode rfl rfl (by decide)
theorem jmp (o : Operand) : Statement (.jmp o) := by
  cases o <;> first | exact of_none rfl | exact of_opcode rfl rfl (by decide)
theorem jsr (o : Operand) : Statement (.jsr o) := by
  cases o <;> first | exact of_none rfl | exact of_opcode rfl rfl (by decide)
theorem rts : Statement .rts := of_opcode rfl rfl (by decide)
theorem pha : Statement .pha := of_opcode rfl rfl (by decide)
theorem php : Statement .php := of_opcode rfl rfl (by decide)
theorem pla : Statement .pla := of_opcode rfl rfl (by decide)
theorem plp : Statement .plp := of_opcode rfl rfl (by decide)
theorem clc : Statement .clc := of_opcode rfl rfl (by decide)
theorem sec : Statement .sec := of_opcode rfl rfl (by decide)
theorem cli : Statement .cli := of_opcode rfl rfl (by decide)
theorem sei : Statement .sei := of_opcode rfl rfl (by decide)
theorem cld : Statement .cld := of_opcode rfl rfl (by decide)
theorem sed : Statement .sed := of_opcode rfl rfl (by decide)
theorem clv : Statement .clv := of_opcode rfl rfl (by decide)
theorem nop : Statement .nop := of_opcode rfl rfl (by decide)
theorem brk : Statement .brk := of_opcode rfl rfl (by decide)
theorem rti : Statement .rti := of_opcode rfl rfl (by decide)
theorem unassigned (op : Byte) : Statement (.unassigned op) := by
  cases h : unassignedBytes.contains op with
  | false => exact of_none (by simp only [opcodeOf, h]; rfl)
  | true =>
    have hu := entryAt_unassigned op h
    exact of_opcode (b := op) (by simp only [opcodeOf, h]; rfl) hu.1.symm (by omega)

end Sys2Proof.Laws.EncodeLength
end

