-- ==== Sys2Proof/Laws/Exec.lean ====
section
/-! SUPPORT. What executing an instruction can do: it completes exactly when the instruction is in the table; its effect; the gate and the Clock. -/

namespace Sys2Proof

/-- The two tables of the spec agree on which terms are instructions (R95, R97). -/
theorem wellFormed_eq_isSome : (i : Instr) → i.wellFormed = (opcodeOf i).isSome
  | .lda o => Laws.WellFormedHasOpcode.lda o
  | .ldx o => Laws.WellFormedHasOpcode.ldx o
  | .ldy o => Laws.WellFormedHasOpcode.ldy o
  | .sta o => Laws.WellFormedHasOpcode.sta o
  | .stx o => Laws.WellFormedHasOpcode.stx o
  | .sty o => Laws.WellFormedHasOpcode.sty o
  | .tax => Laws.WellFormedHasOpcode.tax
  | .tay => Laws.WellFormedHasOpcode.tay
  | .txa => Laws.WellFormedHasOpcode.txa
  | .tya => Laws.WellFormedHasOpcode.tya
  | .tsx => Laws.WellFormedHasOpcode.tsx
  | .txs => Laws.WellFormedHasOpcode.txs
  | .adc o => Laws.WellFormedHasOpcode.adc o
  | .sbc o => Laws.WellFormedHasOpcode.sbc o
  | .cmp o => Laws.WellFormedHasOpcode.cmp o
  | .cpx o => Laws.WellFormedHasOpcode.cpx o
  | .cpy o => Laws.WellFormedHasOpcode.cpy o
  | .inc o => Laws.WellFormedHasOpcode.inc o
  | .dec o => Laws.WellFormedHasOpcode.dec o
  | .inx => Laws.WellFormedHasOpcode.inx
  | .iny => Laws.WellFormedHasOpcode.iny
  | .dex => Laws.WellFormedHasOpcode.dex
  | .dey => Laws.WellFormedHasOpcode.dey
  | .and o => Laws.WellFormedHasOpcode.and o
  | .ora o => Laws.WellFormedHasOpcode.ora o
  | .eor o => Laws.WellFormedHasOpcode.eor o
  | .bit o => Laws.WellFormedHasOpcode.bit o
  | .asl o => Laws.WellFormedHasOpcode.asl o
  | .lsr o => Laws.WellFormedHasOpcode.lsr o
  | .rol o => Laws.WellFormedHasOpcode.rol o
  | .ror o => Laws.WellFormedHasOpcode.ror o
  | .bcc off => Laws.WellFormedHasOpcode.bcc off
  | .bcs off => Laws.WellFormedHasOpcode.bcs off
  | .beq off => Laws.WellFormedHasOpcode.beq off
  | .bmi off => Laws.WellFormedHasOpcode.bmi off
  | .bne off => Laws.WellFormedHasOpcode.bne off
  | .bpl off => Laws.WellFormedHasOpcode.bpl off
  | .bvc off => Laws.WellFormedHasOpcode.bvc off
  | .bvs off => Laws.WellFormedHasOpcode.bvs off
  | .jmp o => Laws.WellFormedHasOpcode.jmp o
  | .jsr o => Laws.WellFormedHasOpcode.jsr o
  | .rts => Laws.WellFormedHasOpcode.rts
  | .pha => Laws.WellFormedHasOpcode.pha
  | .php => Laws.WellFormedHasOpcode.php
  | .pla => Laws.WellFormedHasOpcode.pla
  | .plp => Laws.WellFormedHasOpcode.plp
  | .clc => Laws.WellFormedHasOpcode.clc
  | .sec => Laws.WellFormedHasOpcode.sec
  | .cli => Laws.WellFormedHasOpcode.cli
  | .sei => Laws.WellFormedHasOpcode.sei
  | .cld => Laws.WellFormedHasOpcode.cld
  | .sed => Laws.WellFormedHasOpcode.sed
  | .clv => Laws.WellFormedHasOpcode.clv
  | .nop => Laws.WellFormedHasOpcode.nop
  | .brk => Laws.WellFormedHasOpcode.brk
  | .rti => Laws.WellFormedHasOpcode.rti
  | .unassigned op => Laws.WellFormedHasOpcode.unassigned op

theorem encodeLength : (i : Instr) → Laws.EncodeLength.Statement i
  | .lda o => Laws.EncodeLength.lda o
  | .ldx o => Laws.EncodeLength.ldx o
  | .ldy o => Laws.EncodeLength.ldy o
  | .sta o => Laws.EncodeLength.sta o
  | .stx o => Laws.EncodeLength.stx o
  | .sty o => Laws.EncodeLength.sty o
  | .tax => Laws.EncodeLength.tax
  | .tay => Laws.EncodeLength.tay
  | .txa => Laws.EncodeLength.txa
  | .tya => Laws.EncodeLength.tya
  | .tsx => Laws.EncodeLength.tsx
  | .txs => Laws.EncodeLength.txs
  | .adc o => Laws.EncodeLength.adc o
  | .sbc o => Laws.EncodeLength.sbc o
  | .cmp o => Laws.EncodeLength.cmp o
  | .cpx o => Laws.EncodeLength.cpx o
  | .cpy o => Laws.EncodeLength.cpy o
  | .inc o => Laws.EncodeLength.inc o
  | .dec o => Laws.EncodeLength.dec o
  | .inx => Laws.EncodeLength.inx
  | .iny => Laws.EncodeLength.iny
  | .dex => Laws.EncodeLength.dex
  | .dey => Laws.EncodeLength.dey
  | .and o => Laws.EncodeLength.and o
  | .ora o => Laws.EncodeLength.ora o
  | .eor o => Laws.EncodeLength.eor o
  | .bit o => Laws.EncodeLength.bit o
  | .asl o => Laws.EncodeLength.asl o
  | .lsr o => Laws.EncodeLength.lsr o
  | .rol o => Laws.EncodeLength.rol o
  | .ror o => Laws.EncodeLength.ror o
  | .bcc off => Laws.EncodeLength.bcc off
  | .bcs off => Laws.EncodeLength.bcs off
  | .beq off => Laws.EncodeLength.beq off
  | .bmi off => Laws.EncodeLength.bmi off
  | .bne off => Laws.EncodeLength.bne off
  | .bpl off => Laws.EncodeLength.bpl off
  | .bvc off => Laws.EncodeLength.bvc off
  | .bvs off => Laws.EncodeLength.bvs off
  | .jmp o => Laws.EncodeLength.jmp o
  | .jsr o => Laws.EncodeLength.jsr o
  | .rts => Laws.EncodeLength.rts
  | .pha => Laws.EncodeLength.pha
  | .php => Laws.EncodeLength.php
  | .pla => Laws.EncodeLength.pla
  | .plp => Laws.EncodeLength.plp
  | .clc => Laws.EncodeLength.clc
  | .sec => Laws.EncodeLength.sec
  | .cli => Laws.EncodeLength.cli
  | .sei => Laws.EncodeLength.sei
  | .cld => Laws.EncodeLength.cld
  | .sed => Laws.EncodeLength.sed
  | .clv => Laws.EncodeLength.clv
  | .nop => Laws.EncodeLength.nop
  | .brk => Laws.EncodeLength.brk
  | .rti => Laws.EncodeLength.rti
  | .unassigned op => Laws.EncodeLength.unassigned op

/-- A well-formed instruction has a table entry (R94). -/
theorem entryOf_of_wellFormed {i : Instr} (h : i.wellFormed = true) : ∃ e, entryOf i = some e := by
  rw [wellFormed_eq_isSome] at h
  obtain ⟨b, hb⟩ := Option.isSome_iff_exists.mp h
  exact ⟨entryAt b, by simp [entryOf, hb]⟩

theorem entryOf_eq_none {i : Instr} (h : i.wellFormed = false) : entryOf i = none := by
  rw [wellFormed_eq_isSome] at h
  simp only [entryOf, Option.map_eq_none_iff]
  exact Option.isSome_eq_false_iff.mp h |> Option.isNone_iff_eq_none.mp

namespace Machine

/-- The state an instruction leaves, its cycle count apart. -/
def effect : Instr → State → State
  | .lda o, s => ((s.operand o).2.setA (s.operand o).1).setZN (s.operand o).1
  | .ldx o, s => ((s.operand o).2.setX (s.operand o).1).setZN (s.operand o).1
  | .ldy o, s => ((s.operand o).2.setY (s.operand o).1).setZN (s.operand o).1
  | .sta o, s => (s.place o).2.writeBack (s.place o).1 s.a
  | .stx o, s => (s.place o).2.writeBack (s.place o).1 s.x
  | .sty o, s => (s.place o).2.writeBack (s.place o).1 s.y
  | .tax, s => (s.setX s.a).setZN s.a
  | .tay, s => (s.setY s.a).setZN s.a
  | .txa, s => (s.setA s.x).setZN s.x
  | .tya, s => (s.setA s.y).setZN s.y
  | .tsx, s => (s.setX s.sp).setZN s.sp
  | .txs, s => s.setSp s.x
  | .adc o, s => (s.operand o).2.addWithCarry (s.operand o).1
  | .sbc o, s => (s.operand o).2.addWithCarry ((s.operand o).1 ^^^ 0xFF#8)
  | .cmp o, s => (s.operand o).2.compare (s.operand o).2.a (s.operand o).1
  | .cpx o, s => (s.operand o).2.compare (s.operand o).2.x (s.operand o).1
  | .cpy o, s => (s.operand o).2.compare (s.operand o).2.y (s.operand o).1
  | .inc o, s => s.modify o (fun m _ => m + 1#8)
  | .dec o, s => s.modify o (fun m _ => m - 1#8)
  | .inx, s => (s.setX (s.x + 1#8)).setZN (s.x + 1#8)
  | .iny, s => (s.setY (s.y + 1#8)).setZN (s.y + 1#8)
  | .dex, s => (s.setX (s.x - 1#8)).setZN (s.x - 1#8)
  | .dey, s => (s.setY (s.y - 1#8)).setZN (s.y - 1#8)
  | .and o, s => ((s.operand o).2.setA ((s.operand o).2.a &&& (s.operand o).1)).setZN ((s.operand o).2.a &&& (s.operand o).1)
  | .ora o, s => ((s.operand o).2.setA ((s.operand o).2.a ||| (s.operand o).1)).setZN ((s.operand o).2.a ||| (s.operand o).1)
  | .eor o, s => ((s.operand o).2.setA ((s.operand o).2.a ^^^ (s.operand o).1)).setZN ((s.operand o).2.a ^^^ (s.operand o).1)
  | .bit o, s => (s.operand o).2.bitTest (s.operand o).1
  | .asl o, s => s.shift o (fun m _ => aslByte m) (fun m => m.getLsbD 7)
  | .lsr o, s => s.shift o (fun m _ => lsrByte m) (fun m => m.getLsbD 0)
  | .rol o, s => s.shift o rolByte (fun m => m.getLsbD 7)
  | .ror o, s => s.shift o rorByte (fun m => m.getLsbD 0)
  | .bcc d, s => if !s.flag .c then s.setPc (branchTarget d s) else s
  | .bcs d, s => if s.flag .c then s.setPc (branchTarget d s) else s
  | .beq d, s => if s.flag .z then s.setPc (branchTarget d s) else s
  | .bmi d, s => if s.flag .n then s.setPc (branchTarget d s) else s
  | .bne d, s => if !s.flag .z then s.setPc (branchTarget d s) else s
  | .bpl d, s => if !s.flag .n then s.setPc (branchTarget d s) else s
  | .bvc d, s => if !s.flag .v then s.setPc (branchTarget d s) else s
  | .bvs d, s => if s.flag .v then s.setPc (branchTarget d s) else s
  | .jmp o, s => (s.place o).2.jumpTo (s.place o).1
  | .jsr o, s => ((s.place o).2.pushWord ((s.place o).2.pc - 1#16)).jumpTo (s.place o).1
  | .rts, s => s.pullWord.2.setPc (s.pullWord.1 + 1#16)
  | .pha, s => s.push s.a
  | .php, s => s.push (pushedStatus s.p)
  | .pla, s => (s.pull.2.setA s.pull.1).setZN s.pull.1
  | .plp, s => s.pull.2.setP (maskedStatus s.pull.1)
  | .clc, s => s.setFlag .c false
  | .sec, s => s.setFlag .c true
  | .cli, s => s.setFlag .i false
  | .sei, s => s.setFlag .i true
  | .cld, s => s.setFlag .d false
  | .sed, s => s.setFlag .d true
  | .clv, s => s.setFlag .v false
  | .nop, s => s
  | .brk, s => s.takeBreak
  | .rti, s => s.returnFromBreak
  | .unassigned _, s => s

/-- The penalty cycles of an instruction (R130, R200). -/
def penalty : Instr → State → Entry → Nat
  | .lda o, s | .ldx o, s | .ldy o, s | .adc o, s | .sbc o, s => s.crossPenalty o
  | .cmp o, s | .cpx o, s | .cpy o, s => s.crossPenalty o
  | .and o, s | .ora o, s | .eor o, s | .bit o, s => s.crossPenalty o
  | .bcc d, s => s.branchPenalty (!s.flag .c) d
  | .bcs d, s => s.branchPenalty (s.flag .c) d
  | .beq d, s => s.branchPenalty (s.flag .z) d
  | .bmi d, s => s.branchPenalty (s.flag .n) d
  | .bne d, s => s.branchPenalty (!s.flag .z) d
  | .bpl d, s => s.branchPenalty (!s.flag .n) d
  | .bvc d, s => s.branchPenalty (!s.flag .v) d
  | .bvs d, s => s.branchPenalty (s.flag .v) d
  | _, _ => noPenalty

/-- Every arm of `exec` is its effect under its table entry. -/
theorem exec_eq_run (i : Instr) (s : State) : exec i s = run i (penalty i s) (effect i) s := by
  cases i <;> rfl

/-- What `exec` answers for an instruction of the table (R110, R282). -/
theorem exec_next {i : Instr} {e : Entry} (h : entryOf i = some e) (s : State) :
    exec i s = .next ((effect i s).setCyclesPending (e.cycles + penalty i s e)) := by
  rw [exec_eq_run, run, h]

/-- What `exec` answers for a term outside the table. -/
theorem exec_refused {i : Instr} (h : entryOf i = none) (s : State) :
    exec i s = .refused .notInTable := by
  rw [exec_eq_run, run, h]

/-- If `exec` answers a next state, that state is the effect, with the cycle count set. -/
theorem exec_eq_next {i : Instr} {s t : State} (h : exec i s = .next t) :
    ∃ e, entryOf i = some e ∧ t = (effect i s).setCyclesPending (e.cycles + penalty i s e) := by
  cases he : entryOf i with
  | none => rw [exec_refused he] at h; cases h
  | some e => rw [exec_next he] at h; cases h; exact ⟨e, rfl, rfl⟩

/-! ## The gate and the Clock (R283) -/

/-- `GateTick` touches the three fields of the gate and nothing else. -/
theorem State.gateTick_only (s : State) :
    ∃ n k r, s.gateTick = ((s.setTickCount n).setCyclesPending k).setReady r := by
  unfold State.gateTick
  split
  · exact ⟨_, _, _, rfl⟩
  · exact ⟨s.tickCount + 1, s.cyclesPending, s.ready, rfl⟩

/-- A tick within a cycle only counts (R283). -/
theorem State.gateTick_inside {s : State} (h : s.tickCount + 1 ≠ s.platform.tickDivisor) :
    s.gateTick = s.setTickCount (s.tickCount + 1) := by
  rw [State.gateTick, if_neg h]

/-- The tick that ends a cycle counts the pending cycles down and opens the gate at zero (R283). -/
theorem State.gateTick_boundary {s : State} (h : s.tickCount + 1 = s.platform.tickDivisor) :
    s.gateTick = ((s.setTickCount 0).setCyclesPending (s.cyclesPending - 1)).setReady
      (s.ready || s.cyclesPending - 1 == 0) := by
  rw [State.gateTick, if_pos h]

theorem State.platform_callTick (s : State) (c : TickCallback) :
    (s.callTick c).platform = s.platform := by
  cases c
  · simp only [State.callTick, State.gateTick]; split <;> rfl
  · rfl

/-- Calling callbacks changes the gate's fields and the transcript only. -/
theorem State.foldl_callTick (cs : List TickCallback) (s : State) :
    ∃ n r k tr, cs.foldl State.callTick s =
      (((s.setTickCount n).setCyclesPending k).setReady r).setTranscript tr := by
  induction cs generalizing s with
  | nil => exact ⟨s.tickCount, s.ready, s.cyclesPending, s.transcript, rfl⟩
  | cons c cs ih =>
    obtain ⟨n, r, k, tr, h⟩ := ih (s.callTick c)
    rw [List.foldl_cons, h]
    cases c with
    | gate =>
      obtain ⟨n', k', r', h'⟩ := s.gateTick_only
      refine ⟨n, r, k, tr, ?_⟩
      rw [State.callTick, h']
      rfl
    | external id => exact ⟨n, r, k, tr, rfl⟩

/-- A `Tick` changes the gate's fields and the transcript only (R281, R283, R288). -/
theorem State.tick_only (s : State) :
    ∃ n r k tr, s.tick = (((s.setTickCount n).setCyclesPending k).setReady r).setTranscript tr :=
  State.foldl_callTick _ s

end Machine

end Sys2Proof
end

