-- ==== Sys2Proof/Laws/Effect.lean ====
section
/-! SUPPORT. What every instruction's effect keeps: the canonical array, and everything that is not the CPU's. -/

namespace Sys2Proof.Machine

/-- A write-back keeps the canonical form. -/
theorem State.writeBack_wf (pl : Place) (v : Byte) (s : State) (hm : Memory.wf s.ram = true) :
    Memory.wf (s.writeBack pl v).ram = true := by
  cases pl with
  | acc => exact hm
  | imm n ea => exact s.busWrite_wf ea v hm
  | mem ea c => exact s.busWrite_wf ea v hm

/-- So does a whole read-modify-write. -/
theorem State.modify_wf (o : Operand) (f : Byte → Bool → Byte) (s : State)
    (hm : Memory.wf s.ram = true) :
    Memory.wf (s.modify o f).ram = true :=
  State.writeBack_wf _ _ _ (by rw [State.ram_operand]; exact hm)

/-- Every instruction keeps the backing array canonical (R41). -/
theorem effect_wf (i : Instr) (s : State) (hm : Memory.wf s.ram = true) :
    Memory.wf (effect i s).ram = true := by
  cases i with
  | sta o | stx o | sty o => exact State.writeBack_wf _ _ _ (by rw [State.ram_place]; exact hm)
  | inc o | dec o => simp only [effect]; exact s.modify_wf o _ hm
  | asl o | lsr o | rol o | ror o => simp only [effect, State.shift, State.ram_setFlag]; exact s.modify_wf o _ hm
  | jmp o => rw [effect, State.ram_jumpTo, State.ram_place]; exact hm
  | jsr o =>
    rw [effect, State.ram_jumpTo]
    exact State.pushWord_wf _ _ (by rw [State.ram_place]; exact hm)
  | pha | php => exact s.push_wf _ hm
  | brk => rw [effect, State.ram_takeBreak]; exact State.push_wf _ _ (s.pushWord_wf _ hm)
  | rti => rw [effect, State.ram_returnFromBreak]; exact hm
  | rts => rw [effect, State.ram_setPc, State.ram_pullWord]; exact hm
  | bcc d | bcs d | beq d | bmi d | bne d | bpl d | bvc d | bvs d =>
    simp only [effect]; split <;> exact hm
  | lda o | ldx o | ldy o | adc o | sbc o | cmp o | cpx o | cpy o | and o | ora o | eor o | bit o =>
    have h : Memory.wf (s.operand o).2.ram = true := by rw [State.ram_operand]; exact hm
    exact h
  | _ => exact hm

/-- An instruction leaves the launch parameters, the gate, the run loop's flags and the turns left of
other agents as they were. -/
theorem effect_keepsRun (i : Instr) (s : State) : s.keepsRun (effect i s) := by
  cases i with
  | bcc d | bcs d | beq d | bmi d | bne d | bpl d | bvc d | bvs d =>
    simp only [effect]; split <;> exact ⟨rfl, rfl, rfl, rfl, rfl, rfl⟩
  | _ =>
    simp [effect, State.keepsRun, State.modify, State.shift, State.addWithCarry, State.compare,
      State.bitTest]

end Sys2Proof.Machine
end

