-- ==== Sys2Proof/Laws/Step.lean ====
section
/-! SUPPORT. What one step can be, what the fetch and the poll of the test loop keep, and the bounds on an instruction's cycle cost. -/

namespace Sys2Proof.Machine

/-- With no turn laid down there is none to take. -/
theorem State.turnTaken_nil {s : State} (h : s.inputs = []) : s.turnTaken = s := by
  have : s.setInputs s.inputs = s := rfl
  rw [State.turnTaken, h, List.tail_nil, ← h, this]

/-- If a turn answers a next state, it was an instruction with the gate open, or a poll of the closed gate,
or the step of the Clock, the host or the video unit. -/
theorem State.takeInput_cases {i : Input} {s t : State} (h : s.takeInput i = .next t) :
    (i = .cpu ∧ s.ready = true ∧ instructionStep s = .next t) ∨ (i = .cpu ∧ s.ready = false ∧ t = s) ∨
    (i = .tick ∧ t = s.tick) ∨ (i = .powerOff ∧ t = s.setPoweredOn false) ∨ (i = .boot ∧ t = s.boot) ∨
    ∃ a, i = .ppuRead a ∧ t = (s.ppuRead a).2 := by
  cases i with
  | cpu =>
    simp only [State.takeInput, State.cpuTurn] at h
    split at h
    · next hr => exact .inl ⟨rfl, hr, h⟩
    · next hr => cases h; exact .inr (.inl ⟨rfl, by simpa using hr, rfl⟩)
  | tick => cases h; exact .inr (.inr (.inl ⟨rfl, rfl⟩))
  | powerOff => cases h; exact .inr (.inr (.inr (.inl ⟨rfl, rfl⟩)))
  | boot => cases h; exact .inr (.inr (.inr (.inr (.inl ⟨rfl, rfl⟩))))
  | ppuRead a => cases h; exact .inr (.inr (.inr (.inr (.inr ⟨a, rfl, rfl⟩))))

/-- Everything a step can be, if it answers a next state: the run was going on, one turn was taken from the
list, and the step is an instruction with the gate open, a poll of the closed gate, a tick, power-off,
`Boot` or a PPU read, in the state with that turn taken. -/
theorem step_cases {s t : State} (h : step s = .next t) :
    s.running ∧
    ((s.cpuEnabled ∧ instructionStep s.turnTaken = .next t) ∨
      (s.inputs.head? = some .cpu ∧ s.ready = false ∧ t = s.turnTaken) ∨
      ((s.inputs.head? = some .tick ∨ (s.inputs = [] ∧ s.ready = false)) ∧ t = s.turnTaken.tick) ∨
      (s.inputs.head? = some .powerOff ∧ t = s.turnTaken.setPoweredOn false) ∨
      (s.inputs.head? = some .boot ∧ t = s.turnTaken.boot) ∨
      ∃ a, s.inputs.head? = some (.ppuRead a) ∧ t = (s.turnTaken.ppuRead a).2) := by
  unfold step at h
  split at h
  · cases h
  · next h1 =>
    split at h
    · cases h
    · next h2 =>
      have hrun : s.running := ⟨by simpa using h1, by simpa using h2⟩
      refine ⟨hrun, ?_⟩
      split at h
      · next i rest hi =>
        have e : s.setInputs rest = s.turnTaken := by rw [State.turnTaken, hi]; rfl
        have hh : s.inputs.head? = some i := by rw [hi]; rfl
        rw [e] at h
        obtain ⟨rfl, hr, h⟩ | ⟨rfl, hr, rfl⟩ | ⟨rfl, rfl⟩ | ⟨rfl, rfl⟩ | ⟨rfl, rfl⟩ | ⟨a, rfl, rfl⟩ :=
          State.takeInput_cases h
        · exact .inl ⟨⟨hrun, hr, .inr hh⟩, h⟩
        · exact .inr (.inl ⟨hh, hr, rfl⟩)
        · exact .inr (.inr (.inl ⟨.inl hh, rfl⟩))
        · exact .inr (.inr (.inr (.inl ⟨hh, rfl⟩)))
        · exact .inr (.inr (.inr (.inr (.inl ⟨hh, rfl⟩))))
        · exact .inr (.inr (.inr (.inr (.inr ⟨a, hh, rfl⟩))))
      · next hi =>
        rw [State.turnTaken_nil hi]
        split at h
        · next hr => exact .inl ⟨⟨hrun, hr, .inl hi⟩, h⟩
        · next hr => cases h; exact .inr (.inr (.inl ⟨.inr ⟨hi, by simpa using hr⟩, rfl⟩))

/-- The converse for the CPU: where its turn is next and the gate is open, the step is an instruction. -/
theorem step_of_cpuEnabled {s : State} (h : s.cpuEnabled) : step s = instructionStep s.turnTaken := by
  obtain ⟨⟨h1, h2⟩, hr, hi | hi⟩ := h
  · rw [State.turnTaken_nil hi]
    simp [step, h1, h2, hi, hr]
  · cases hl : s.inputs with
    | nil => simp [hl] at hi
    | cons i rest =>
      obtain rfl : i = .cpu := by simpa [hl] using hi
      have e : s.setInputs rest = s.turnTaken := by rw [State.turnTaken, hl]; rfl
      have hr' : s.turnTaken.ready = true := hr
      simp [step, h1, h2, hl, e, State.takeInput, State.cpuTurn, hr']

/-- An instruction step is `exec` of what the fetched bytes decode to, and the poll after it. -/
theorem instructionStep_eq_next {s t : State} (h : instructionStep s = .next t) :
    ∃ i rest u, decode s.closeGate.fetch.1 = .ok (i, rest) ∧ exec i s.closeGate.fetch.2 = .next u ∧
      t = u.pollTest := by
  unfold instructionStep at h
  split at h
  · cases h
  · next i rest hd =>
    split at h
    · next u hu => cases h; exact ⟨i, rest, u, hd, hu, rfl⟩
    · cases h
    · cases h

theorem State.keepsRun.trans {s t u : State} (h : s.keepsRun t) (k : t.keepsRun u) : s.keepsRun u := by
  obtain ⟨a1, a2, a3, a4, a5, a6⟩ := h
  obtain ⟨b1, b2, b3, b4, b5, b6⟩ := k
  exact ⟨b1.trans a1, b2.trans a2, b3.trans a3, b4.trans a4, b5.trans a5, b6.trans a6⟩

/-- Reading one instruction byte leaves memory and everything that is not the CPU's alone. -/
theorem State.fetchByte_keeps (s : State) :
    s.keepsRun s.fetchByte.2 ∧ s.fetchByte.2.cyclesPending = s.cyclesPending ∧
      s.fetchByte.2.ram = s.ram := by
  simp [State.fetchByte, State.keepsRun]

theorem State.fetchBytes_keeps (n : Nat) (s : State) :
    s.keepsRun (s.fetchBytes n).2 ∧ (s.fetchBytes n).2.cyclesPending = s.cyclesPending ∧
      (s.fetchBytes n).2.ram = s.ram := by
  induction n generalizing s with
  | zero => simp [State.fetchBytes, State.keepsRun]
  | succ n ih =>
    obtain ⟨a, b, c⟩ := ih s.fetchByte.2
    obtain ⟨d, e, f⟩ := s.fetchByte_keeps
    exact ⟨d.trans a, b.trans e, c.trans f⟩

/-- The whole fetch (R26, R111). -/
theorem State.fetch_keeps (s : State) :
    s.keepsRun s.fetch.2 ∧ s.fetch.2.cyclesPending = s.cyclesPending ∧ s.fetch.2.ram = s.ram := by
  obtain ⟨a, b, c⟩ := State.fetchBytes_keeps (entryAt s.fetchOpcode.1).mode.operandBytes s.fetchOpcode.2
  obtain ⟨d, e, f⟩ := s.fetchByte_keeps
  exact ⟨State.keepsRun.trans d a, b.trans e, c.trans f⟩

/-- The poll may end the run; it touches no register, no cell and not the gate (R262). -/
theorem State.pollTest_keeps (s : State) :
    s.pollTest.platform = s.platform ∧ s.pollTest.ready = s.ready ∧
    s.pollTest.tickCount = s.tickCount ∧ s.pollTest.poweredOn = s.poweredOn ∧
    s.pollTest.inputs = s.inputs ∧ s.pollTest.cyclesPending = s.cyclesPending ∧
    s.pollTest.ram = s.ram := by
  unfold State.pollTest
  split
  · simp
  · simp only []; split <;> simp

/-- No entry costs more than 7 cycles, and none that can pay a penalty more than 5 (R95). -/
theorem entryAt_cycles : ∀ b : Byte, (entryAt b).cycles ≤ 7 ∧
    ((entryAt b).plus = true → (entryAt b).cycles ≤ 5) := by decide

theorem State.crossPenalty_le (o : Operand) (s : State) (b : Byte) :
    (entryAt b).cycles + s.crossPenalty o (entryAt b) ≤ 7 := by
  have h7 := entryAt_cycles b
  unfold State.crossPenalty
  split
  · next h =>
    have hp : (entryAt b).plus = true := by simp only [Bool.and_eq_true] at h; exact h.1
    have := h7.2 hp
    omega
  · omega

theorem State.branchPenalty_le (s : State) (t : Bool) (off : Byte) (e : Entry) :
    s.branchPenalty t off e ≤ 2 := by
  unfold State.branchPenalty
  split
  · split <;> omega
  · omega

/-- An instruction costs between 2 and 7 cycles, penalties included (R5, R282). -/
theorem cost_bounds {i : Instr} {e : Entry} (h : entryOf i = some e) (s : State) :
    2 ≤ e.cycles + penalty i s e ∧ e.cycles + penalty i s e ≤ 7 := by
  refine ⟨Nat.le_trans (encodeLength i e h).2.1 (Nat.le_add_right _ _), ?_⟩
  obtain ⟨b, hb, rfl⟩ : ∃ b, opcodeOf i = some b ∧ entryAt b = e := by simpa [entryOf] using h
  cases i with
  | bcc d | bcs d | beq d | bmi d | bne d | bpl d | bvc d | bvs d =>
    have h2 : (entryAt b).cycles = 2 := by cases hb; rfl
    rw [h2]
    have hp : ∀ t d, 2 + s.branchPenalty t d (entryAt b) ≤ 7 := fun t d => by
      have := s.branchPenalty_le t d (entryAt b); omega
    exact hp _ _
  | _ =>
    first
    | exact State.crossPenalty_le _ _ _
    | exact (entryAt_cycles b).1

end Sys2Proof.Machine
end

