-- ==== Sys2Proof/Tests/Slice0.lean ====
section
/-! SUPPORT. The model's own tests: well-formedness, decoding, one-step vectors of spec/95_test_vectors.md (values from there, never from the model), and a witness for the hypotheses of every obligation that has some. -/

namespace Sys2Proof.Machine.Tests

open Sys2Proof Sys2Proof.Machine

/-! ## Helpers -/

/-- The vectors' default start (95, "Conventions"): after `Boot` with FlatMem, the code bytes at `pc`, and
some cells of the array. -/
def start (pc : Addr) (code : List Byte) (cells : List Host.Cell) : State :=
  { State.reset with
    pc := pc
    ram := cells.foldl (fun m c => Memory.set m c.1 c.2) (Memory.setAll [] pc.toNat code) }

/-- The same with no interceptor on the bus. -/
def quiet (s : State) : State :=
  { s with platform := { s.platform with readInterceptors := [], writeInterceptors := [] } }

/-- After one step: A, X, Y, S, P, PC, cycles; and the bytes of the given cells. -/
def outcome (s : State) (cells : List Nat) : Option (List Nat × List Byte) :=
  match step s with
  | .next t => some ([t.a.toNat, t.x.toNat, t.y.toNat, t.sp.toNat, t.p.toNat, t.pc.toNat, t.cyclesPending],
      cells.map (Memory.get t.ram))
  | .fault _ => none
  | .refused _ => none

/-- After `n` steps: `cycles_pending`, `ready`, `tick_count`. -/
def gate (n : Nat) (s : State) : Option (Nat × Bool × Nat) :=
  match core.run n s with
  | .next t => some (State.cyclesPending t, State.ready t, State.tickCount t)
  | .fault _ => none
  | .refused _ => none

/-- The meaning refuses the term as no row of the table. -/
def refusedAsNoRow (i : Instr) : Bool :=
  match exec i State.reset with
  | .refused .notInTable => true
  | _ => false

/-- What the decoder reads. -/
def reads (bs : List Byte) : Option (Instr × List Byte) := (decode bs).toOption

/-! ## WellFormed: an ill-formed term for each check, refused (R97, R96) -/

theorem test_wellFormed_refuses :
    [.lda .acc, .adc (.zpy 0x10), .sbc (.ind 0x1234), .cmp .acc, .and .acc, .ora (.zpy 0), .eor (.ind 0),
     .ldx (.zpx 0x10), .ldx (.abx 0), .ldy (.zpy 0x10), .ldy (.aby 0), .sta (.imm 0x10), .stx (.zpx 0x10),
     .stx (.aby 0), .sty (.zpy 0x10), .sty (.abx 0), .cpx (.zpx 0), .cpy (.izy 0), .inc .acc, .dec (.aby 0),
     .bit (.imm 0), .asl (.imm 0), .lsr (.zpy 0), .rol (.izx 0), .ror (.aby 0), .jmp (.zp 0), .jmp (.abx 0),
     .jsr (.ind 0), .unassigned 0xEA, .unassigned 0x00].all
      (fun i => !i.wellFormed && refusedAsNoRow i) = true := by decide

theorem test_wellFormed_accepts :
    [.lda (.izy 0xFF), .sta (.aby 0xFFFF), .ldx (.zpy 0), .asl .acc, .jmp (.ind 0x02FF), .jsr (.abs 0),
     .bne 0x80, .brk, .unassigned 0x02, .unassigned 0xFF].all Instr.wellFormed = true := by decide

/-! ## Decode: every constructor, its byte written out from the table's encoding, operands low byte first -/

theorem test_decode_loads_stores :
    reads [0b10110001, 0b10010110] = some ((.lda (.izy 0x96)), []) ∧
    reads [0b10110110, 0b10010110] = some ((.ldx (.zpy 0x96)), []) ∧
    reads [0b10111100, 0b00110100, 0b10010010] = some ((.ldy (.abx 0x9234)), []) ∧
    reads [0b10000001, 0b10010110] = some ((.sta (.izx 0x96)), []) ∧
    reads [0b10010110, 0b10010110] = some ((.stx (.zpy 0x96)), []) ∧
    reads [0b10010100, 0b10010110] = some ((.sty (.zpx 0x96)), []) := by decide

theorem test_decode_transfers :
    reads [0b10101010] = some (.tax, []) ∧
    reads [0b10101000] = some (.tay, []) ∧
    reads [0b10001010] = some (.txa, []) ∧
    reads [0b10011000] = some (.tya, []) ∧
    reads [0b10111010] = some (.tsx, []) ∧
    reads [0b10011010] = some (.txs, []) := by decide

theorem test_decode_arithmetic :
    reads [0b01101001, 0b10010110] = some ((.adc (.imm 0x96)), []) ∧
    reads [0b11111001, 0b00110100, 0b10010010] = some ((.sbc (.aby 0x9234)), []) ∧
    reads [0b11001101, 0b00110100, 0b10010010] = some ((.cmp (.abs 0x9234)), []) ∧
    reads [0b11100000, 0b10010110] = some ((.cpx (.imm 0x96)), []) ∧
    reads [0b11000100, 0b10010110] = some ((.cpy (.zp 0x96)), []) ∧
    reads [0b11110110, 0b10010110] = some ((.inc (.zpx 0x96)), []) ∧
    reads [0b11011110, 0b00110100, 0b10010010] = some ((.dec (.abx 0x9234)), []) ∧
    reads [0b11101000] = some (.inx, []) ∧
    reads [0b11001000] = some (.iny, []) ∧
    reads [0b11001010] = some (.dex, []) ∧
    reads [0b10001000] = some (.dey, []) := by decide

theorem test_decode_logic_shifts :
    reads [0b00100001, 0b10010110] = some ((.and (.izx 0x96)), []) ∧
    reads [0b00000101, 0b10010110] = some ((.ora (.zp 0x96)), []) ∧
    reads [0b01010001, 0b10010110] = some ((.eor (.izy 0x96)), []) ∧
    reads [0b00101100, 0b00110100, 0b10010010] = some ((.bit (.abs 0x9234)), []) ∧
    reads [0b00001010] = some ((.asl .acc), []) ∧
    reads [0b01000110, 0b10010110] = some ((.lsr (.zp 0x96)), []) ∧
    reads [0b00111110, 0b00110100, 0b10010010] = some ((.rol (.abx 0x9234)), []) ∧
    reads [0b01101010] = some ((.ror .acc), []) := by decide

theorem test_decode_control_flow :
    reads [0b10010000, 0b11111011] = some ((.bcc 0xFB), []) ∧
    reads [0b10110000, 0b11111011] = some ((.bcs 0xFB), []) ∧
    reads [0b11110000, 0b11111011] = some ((.beq 0xFB), []) ∧
    reads [0b00110000, 0b11111011] = some ((.bmi 0xFB), []) ∧
    reads [0b11010000, 0b11111011] = some ((.bne 0xFB), []) ∧
    reads [0b00010000, 0b11111011] = some ((.bpl 0xFB), []) ∧
    reads [0b01010000, 0b11111011] = some ((.bvc 0xFB), []) ∧
    reads [0b01110000, 0b11111011] = some ((.bvs 0xFB), []) ∧
    reads [0b01101100, 0b00110100, 0b10010010] = some ((.jmp (.ind 0x9234)), []) ∧
    reads [0b00100000, 0b00110100, 0b10010010] = some ((.jsr (.abs 0x9234)), []) ∧
    reads [0b01100000] = some (.rts, []) := by decide

theorem test_decode_stack_flags :
    reads [0b01001000] = some (.pha, []) ∧
    reads [0b00001000] = some (.php, []) ∧
    reads [0b01101000] = some (.pla, []) ∧
    reads [0b00101000] = some (.plp, []) ∧
    reads [0b00011000] = some (.clc, []) ∧
    reads [0b00111000] = some (.sec, []) ∧
    reads [0b01011000] = some (.cli, []) ∧
    reads [0b01111000] = some (.sei, []) ∧
    reads [0b11011000] = some (.cld, []) ∧
    reads [0b11111000] = some (.sed, []) ∧
    reads [0b10111000] = some (.clv, []) := by decide

theorem test_decode_system :
    reads [0b11101010] = some (.nop, []) ∧
    reads [0b00000000] = some (.brk, []) ∧
    reads [0b01000000] = some (.rti, []) ∧
    reads [0b00000010] = some ((.unassigned 0x02), []) := by decide

theorem test_decode_wants_operand_bytes :
    decode [] = .error .noOpcode ∧ decode [0xA9] = .error (.operandMissing 0xA9 1) ∧
    decode [0x20, 0x34] = .error (.operandMissing 0x20 2) ∧
    decode [0x0A, 0x55] = .ok (.asl .acc, [0x55]) := ⟨rfl, rfl, rfl, rfl⟩

theorem test_decodeTableWord :
    decodeTableWord 24 0x1234BD = some (.lda (.abx 0x1234)) ∧ decodeTableWord 8 0xFFA9 = some (.lda (.imm 0)) ∧
    decodeTableWord 16 0xFBD0 = some (.bne 0xFB) := by decide

/-! ## One step: vectors of 95, by their names there -/

/-! ### Part 1: the worked examples of the source -/

theorem test_adc_S1 : outcome { start 0x8000 [0x69, 0x50] [] with a := 0x50 }
    [] = some ([0xA0, 0x00, 0x00, 0xFF, 0xC4, 0x8002, 2], []) := by decide

theorem test_sbc_S2 : outcome { start 0x8000 [0xE9, 0x01] [] with a := 0x00, p := 0x05 }
    [] = some ([0xFF, 0x00, 0x00, 0xFF, 0x84, 0x8002, 2], []) := by decide

theorem test_bvc_S6a : outcome (start 0x80FC [0x50, 0x04] [])
    [] = some ([0x00, 0x00, 0x00, 0xFF, 0x04, 0x8102, 4], []) := by decide

theorem test_bvc_S6c : outcome { start 0x80FC [0x50, 0x04] [] with p := 0x44 }
    [] = some ([0x00, 0x00, 0x00, 0xFF, 0x44, 0x80FE, 2], []) := by decide

theorem test_nop_S7a : outcome { start 0x8000 [0xEA] [] with a := 0x12, x := 0x34, y := 0x56, sp := 0x78, p := 0xCB }
    [] = some ([0x12, 0x34, 0x56, 0x78, 0xCB, 0x8001, 2], []) := by decide

theorem test_unassigned_S7b : outcome { start 0x8000 [0xFF, 0xFF, 0xFF] [] with a := 0x12, x := 0x34, y := 0x56, sp := 0x78, p := 0xCB }
    [] = some ([0x12, 0x34, 0x56, 0x78, 0xCB, 0x8001, 2], []) := by decide

/-! ### 2.1 Load, store, transfer -/

theorem test_lda_V41_01 : outcome { start 0x8000 [0xA9, 0x00] [] with a := 0x55 }
    [] = some ([0x00, 0x00, 0x00, 0xFF, 0x06, 0x8002, 2], []) := by decide

theorem test_lda_V41_04 : outcome { start 0x8000 [0xB5, 0xF0] [(0x0010, 0x33)] with x := 0x20 }
    [] = some ([0x33, 0x20, 0x00, 0xFF, 0x04, 0x8002, 4], []) := by decide

theorem test_lda_V41_06 : outcome { start 0x8000 [0xBD, 0xF0, 0x12] [(0x0310, 0x44)] with x := 0x20 }
    [] = some ([0x44, 0x20, 0x00, 0xFF, 0x04, 0x8003, 5], []) := by decide

theorem test_lda_V41_08 : outcome { start 0x8000 [0xB9, 0xFF, 0xFF] [(0x0001, 0x46)] with y := 0x02 }
    [] = some ([0x46, 0x00, 0x02, 0xFF, 0x04, 0x8003, 5], []) := by decide

theorem test_lda_V41_09 : outcome { start 0x8000 [0xA1, 0xFE] [(0x0000, 0x03), (0x00FF, 0x00), (0x0300, 0x5A)] with x := 0x01 }
    [] = some ([0x5A, 0x01, 0x00, 0xFF, 0x04, 0x8002, 6], []) := by decide

theorem test_lda_V41_10 : outcome { start 0x8000 [0xB1, 0xFF] [(0x0000, 0x12), (0x00FF, 0xF0), (0x0310, 0x5B)] with y := 0x20 }
    [] = some ([0x5B, 0x00, 0x20, 0xFF, 0x04, 0x8002, 6], []) := by decide

theorem test_lda_V41_26 : outcome (quiet (start 0x0200 [0xAD, 0x00, 0x50] []))
    [] = some ([0x50, 0x00, 0x00, 0xFF, 0x04, 0x0203, 4], []) := by decide

theorem test_ldx_V41_11 : outcome { start 0x8000 [0xB6, 0xF0] [(0x0010, 0x80)] with y := 0x20 }
    [] = some ([0x00, 0x80, 0x20, 0xFF, 0x84, 0x8002, 4], []) := by decide

theorem test_ldy_V41_13 : outcome { start 0x8000 [0xBC, 0x00, 0x02] [(0x02FF, 0x01)] with x := 0xFF }
    [] = some ([0x00, 0xFF, 0x01, 0xFF, 0x04, 0x8003, 4], []) := by decide

theorem test_sta_V41_15 : outcome { start 0x8000 [0x9D, 0xF0, 0x12] [] with a := 0xAA, x := 0x20 }
    [0x0310] = some ([0xAA, 0x20, 0x00, 0xFF, 0x04, 0x8003, 5], [0xAA]) := by decide

theorem test_sta_V41_16 : outcome { start 0x8000 [0x91, 0x30] [(0x0030, 0x10), (0x0031, 0x02)] with a := 0xAB, y := 0x05 }
    [0x0215] = some ([0xAB, 0x00, 0x05, 0xFF, 0x04, 0x8002, 6], [0xAB]) := by decide

theorem test_sta_V41_27 : outcome { quiet (start 0x0200 [0x8D, 0x00, 0x50] []) with a := 0x77 }
    [] = some ([0x77, 0x00, 0x00, 0xFF, 0x04, 0x0203, 4], []) := by decide

theorem test_stx_V41_18 : outcome { start 0x8000 [0x96, 0xF0] [] with x := 0x11, y := 0x20 }
    [0x0010] = some ([0x00, 0x11, 0x20, 0xFF, 0x04, 0x8002, 4], [0x11]) := by decide

theorem test_sty_V41_19 : outcome { start 0x8000 [0x8C, 0x12, 0x18] [] with y := 0x22 }
    [0x0012] = some ([0x00, 0x00, 0x22, 0xFF, 0x04, 0x8003, 4], [0x22]) := by decide

theorem test_tax_V41_20 : outcome { start 0x8000 [0xAA] [] with a := 0x80 }
    [] = some ([0x80, 0x80, 0x00, 0xFF, 0x84, 0x8001, 2], []) := by decide

theorem test_tay_V41_21 : outcome { start 0x8000 [0xA8] [] with a := 0x00, y := 0x09 }
    [] = some ([0x00, 0x00, 0x00, 0xFF, 0x06, 0x8001, 2], []) := by decide

theorem test_txa_V41_22 : outcome { start 0x8000 [0x8A] [] with x := 0x01, a := 0xFF, p := 0x86 }
    [] = some ([0x01, 0x01, 0x00, 0xFF, 0x04, 0x8001, 2], []) := by decide

theorem test_tya_V41_23 : outcome { start 0x8000 [0x98] [] with y := 0xFF }
    [] = some ([0xFF, 0x00, 0xFF, 0xFF, 0x84, 0x8001, 2], []) := by decide

theorem test_tsx_V41_24 : outcome { start 0x8000 [0xBA] [] with sp := 0xFF }
    [] = some ([0x00, 0xFF, 0x00, 0xFF, 0x84, 0x8001, 2], []) := by decide

theorem test_txs_V41_25 : outcome { start 0x8000 [0x9A] [] with x := 0x00, sp := 0x55 }
    [] = some ([0x00, 0x00, 0x00, 0x00, 0x04, 0x8001, 2], []) := by decide

/-! ### 2.2 Arithmetic -/

theorem test_adc_V42_03 : outcome { start 0x8000 [0x69, 0x80] [] with a := 0x80 }
    [] = some ([0x00, 0x00, 0x00, 0xFF, 0x47, 0x8002, 2], []) := by decide

theorem test_adc_V42_05 : outcome { start 0x8000 [0x69, 0x01] [] with a := 0x09, p := 0x0C }
    [] = some ([0x0A, 0x00, 0x00, 0xFF, 0x0C, 0x8002, 2], []) := by decide

theorem test_sbc_V42_09 : outcome { start 0x8000 [0xE9, 0xB0] [] with a := 0x50, p := 0x05 }
    [] = some ([0xA0, 0x00, 0x00, 0xFF, 0xC4, 0x8002, 2], []) := by decide

theorem test_sbc_V42_11 : outcome { start 0x8000 [0xE9, 0x01] [] with a := 0x10, p := 0x0D }
    [] = some ([0x0F, 0x00, 0x00, 0xFF, 0x0D, 0x8002, 2], []) := by decide

theorem test_cmp_V42_13 : outcome { start 0x8000 [0xC9, 0x20] [] with a := 0x20, p := 0x44 }
    [] = some ([0x20, 0x00, 0x00, 0xFF, 0x47, 0x8002, 2], []) := by decide

theorem test_cmp_V42_15 : outcome { start 0x8000 [0xC9, 0x00] [] with a := 0x80 }
    [] = some ([0x80, 0x00, 0x00, 0xFF, 0x85, 0x8002, 2], []) := by decide

theorem test_cpx_V42_16 : outcome { start 0x8000 [0xE4, 0x10] [(0x0010, 0x05)] with x := 0x05 }
    [] = some ([0x00, 0x05, 0x00, 0xFF, 0x07, 0x8002, 3], []) := by decide

theorem test_cpy_V42_17 : outcome { start 0x8000 [0xC0, 0x10] [] with y := 0x0F }
    [] = some ([0x00, 0x00, 0x0F, 0xFF, 0x84, 0x8002, 2], []) := by decide

theorem test_inc_V42_18 : outcome { start 0x8000 [0xE6, 0x10] [(0x0010, 0xFF)] with p := 0x05 }
    [0x0010] = some ([0x00, 0x00, 0x00, 0xFF, 0x07, 0x8002, 5], [0x00]) := by decide

theorem test_inc_V42_19 : outcome { start 0x8000 [0xFE, 0xF0, 0x02] [(0x0310, 0x7F)] with x := 0x20 }
    [0x0310] = some ([0x00, 0x20, 0x00, 0xFF, 0x84, 0x8003, 7], [0x80]) := by decide

theorem test_dec_V42_20 : outcome (start 0x8000 [0xC6, 0x10] [(0x0010, 0x00)])
    [0x0010] = some ([0x00, 0x00, 0x00, 0xFF, 0x84, 0x8002, 5], [0xFF]) := by decide

theorem test_inx_V42_22 : outcome { start 0x8000 [0xE8] [] with x := 0xFF }
    [] = some ([0x00, 0x00, 0x00, 0xFF, 0x06, 0x8001, 2], []) := by decide

theorem test_iny_V42_23 : outcome { start 0x8000 [0xC8] [] with y := 0x7F }
    [] = some ([0x00, 0x00, 0x80, 0xFF, 0x84, 0x8001, 2], []) := by decide

theorem test_dex_V42_24 : outcome { start 0x8000 [0xCA] [] with x := 0x00 }
    [] = some ([0x00, 0xFF, 0x00, 0xFF, 0x84, 0x8001, 2], []) := by decide

theorem test_dey_V42_25 : outcome { start 0x8000 [0x88] [] with y := 0x01 }
    [] = some ([0x00, 0x00, 0x00, 0xFF, 0x06, 0x8001, 2], []) := by decide

/-! ### 2.3 Logic and shifts -/

theorem test_and_V43_01 : outcome { start 0x8000 [0x29, 0x0F] [] with a := 0xF0 }
    [] = some ([0x00, 0x00, 0x00, 0xFF, 0x06, 0x8002, 2], []) := by decide

theorem test_ora_V43_03 : outcome { start 0x8000 [0x09, 0x80] [] with a := 0x01 }
    [] = some ([0x81, 0x00, 0x00, 0xFF, 0x84, 0x8002, 2], []) := by decide

theorem test_eor_V43_06 : outcome { start 0x8000 [0x41, 0x10] [(0x0014, 0x00), (0x0015, 0x03), (0x0300, 0xF0)] with a := 0x0F, x := 0x04 }
    [] = some ([0xFF, 0x04, 0x00, 0xFF, 0x84, 0x8002, 6], []) := by decide

theorem test_bit_V43_07 : outcome { start 0x8000 [0x24, 0x10] [(0x0010, 0xC0)] with a := 0x01 }
    [] = some ([0x01, 0x00, 0x00, 0xFF, 0xC6, 0x8002, 3], []) := by decide

theorem test_bit_V43_08 : outcome { start 0x8000 [0x2C, 0x00, 0x03] [(0x0300, 0x3F)] with a := 0xFF, p := 0xC6 }
    [] = some ([0xFF, 0x00, 0x00, 0xFF, 0x04, 0x8003, 4], []) := by decide

theorem test_asl_V43_09 : outcome { start 0x8000 [0x0A] [] with a := 0x80 }
    [] = some ([0x00, 0x00, 0x00, 0xFF, 0x07, 0x8001, 2], []) := by decide

theorem test_asl_V43_10 : outcome { start 0x8000 [0x06, 0x10] [(0x0010, 0x41)] with p := 0x05 }
    [0x0010] = some ([0x00, 0x00, 0x00, 0xFF, 0x84, 0x8002, 5], [0x82]) := by decide

theorem test_lsr_V43_11 : outcome { start 0x8000 [0x4A] [] with a := 0x01 }
    [] = some ([0x00, 0x00, 0x00, 0xFF, 0x07, 0x8001, 2], []) := by decide

theorem test_lsr_V43_12 : outcome { start 0x8000 [0x56, 0x10] [(0x0011, 0xFE)] with x := 0x01, p := 0x85 }
    [0x0011] = some ([0x00, 0x01, 0x00, 0xFF, 0x04, 0x8002, 6], [0x7F]) := by decide

theorem test_rol_V43_13 : outcome { start 0x8000 [0x2A] [] with a := 0x80, p := 0x05 }
    [] = some ([0x01, 0x00, 0x00, 0xFF, 0x05, 0x8001, 2], []) := by decide

theorem test_rol_V43_14 : outcome { start 0x8000 [0x3E, 0x00, 0x03] [(0x0301, 0x40)] with x := 0x01 }
    [0x0301] = some ([0x00, 0x01, 0x00, 0xFF, 0x84, 0x8003, 7], [0x80]) := by decide

theorem test_ror_V43_15 : outcome { start 0x8000 [0x6A] [] with a := 0x01, p := 0x05 }
    [] = some ([0x80, 0x00, 0x00, 0xFF, 0x85, 0x8001, 2], []) := by decide

theorem test_ror_V43_16 : outcome (start 0x8000 [0x66, 0x10] [(0x0010, 0x01)])
    [0x0010] = some ([0x00, 0x00, 0x00, 0xFF, 0x07, 0x8002, 5], [0x00]) := by decide

/-! ### 2.4 Control flow -/

theorem test_bcc_V44_01 : outcome (start 0x8000 [0x90, 0x02] [])
    [] = some ([0x00, 0x00, 0x00, 0xFF, 0x04, 0x8004, 3], []) := by decide

theorem test_bcc_V44_02 : outcome { start 0x8000 [0x90, 0x02] [] with p := 0x05 }
    [] = some ([0x00, 0x00, 0x00, 0xFF, 0x05, 0x8002, 2], []) := by decide

theorem test_bcs_V44_03 : outcome { start 0x8000 [0xB0, 0xFE] [] with p := 0x05 }
    [] = some ([0x00, 0x00, 0x00, 0xFF, 0x05, 0x8000, 3], []) := by decide

theorem test_beq_V44_04 : outcome { start 0x8000 [0xF0, 0x10] [] with p := 0x06 }
    [] = some ([0x00, 0x00, 0x00, 0xFF, 0x06, 0x8012, 3], []) := by decide

theorem test_bne_V44_05 : outcome (start 0x8005 [0xD0, 0xFB] [])
    [] = some ([0x00, 0x00, 0x00, 0xFF, 0x04, 0x8002, 3], []) := by decide

theorem test_bmi_V44_06 : outcome { start 0x8000 [0x30, 0x80] [] with p := 0x84 }
    [] = some ([0x00, 0x00, 0x00, 0xFF, 0x84, 0x7F82, 4], []) := by decide

theorem test_bpl_V44_07 : outcome (start 0x8000 [0x10, 0x7F] [])
    [] = some ([0x00, 0x00, 0x00, 0xFF, 0x04, 0x8081, 3], []) := by decide

theorem test_bvs_V44_08 : outcome { start 0xFFFD [0x70, 0x02] [] with p := 0x44 }
    [] = some ([0x00, 0x00, 0x00, 0xFF, 0x44, 0x0001, 4], []) := by decide

theorem test_jmp_V44_10 : outcome (start 0x8000 [0x4C, 0x00, 0x90] [])
    [] = some ([0x00, 0x00, 0x00, 0xFF, 0x04, 0x9000, 3], []) := by decide

theorem test_jmp_V44_12 : outcome (start 0x8000 [0x6C, 0xFF, 0x02] [(0x0200, 0x12), (0x02FF, 0x34), (0x0300, 0x99)])
    [] = some ([0x00, 0x00, 0x00, 0xFF, 0x04, 0x1234, 5], []) := by decide

theorem test_jsr_V44_13 : outcome { start 0x8000 [0x20, 0x00, 0x90] [] with sp := 0x00 }
    [0x0100, 0x01FF] = some ([0x00, 0x00, 0x00, 0xFE, 0x04, 0x9000, 6], [0x80, 0x02]) := by decide

theorem test_jsr_V44_14 : outcome (start 0xFFFD [0x20, 0x00, 0x00] [])
    [0x01FF, 0x01FE] = some ([0x00, 0x00, 0x00, 0xFD, 0x04, 0x0000, 6], [0xFF, 0xFF]) := by decide

theorem test_rts_V44_15 : outcome (start 0x8000 [0x60] [(0x0100, 0xFF), (0x0101, 0xFF)])
    [] = some ([0x00, 0x00, 0x00, 0x01, 0x04, 0x0000, 6], []) := by decide

/-! ### 2.5 Stack, flags, system -/

theorem test_pha_V45_02 : outcome { start 0x8000 [0x48] [] with a := 0x42, sp := 0x00 }
    [0x0100] = some ([0x42, 0x00, 0x00, 0xFF, 0x04, 0x8001, 3], [0x42]) := by decide

theorem test_php_V45_04 : outcome { start 0x8000 [0x08] [] with p := 0xCF }
    [0x01FF] = some ([0x00, 0x00, 0x00, 0xFE, 0xCF, 0x8001, 3], [0xFF]) := by decide

theorem test_pla_V45_06 : outcome { start 0x8000 [0x68] [(0x0100, 0x80)] with sp := 0xFF }
    [] = some ([0x80, 0x00, 0x00, 0x00, 0x84, 0x8001, 4], []) := by decide

theorem test_plp_V45_07 : outcome { start 0x8000 [0x28] [(0x01FF, 0xFF)] with sp := 0xFE }
    [] = some ([0x00, 0x00, 0x00, 0xFF, 0xCF, 0x8001, 4], []) := by decide

theorem test_clc_V45_09 : outcome { start 0x8000 [0x18] [] with p := 0x05 }
    [] = some ([0x00, 0x00, 0x00, 0xFF, 0x04, 0x8001, 2], []) := by decide

theorem test_sec_V45_10 : outcome (start 0x8000 [0x38] [])
    [] = some ([0x00, 0x00, 0x00, 0xFF, 0x05, 0x8001, 2], []) := by decide

theorem test_cli_V45_11 : outcome (start 0x8000 [0x58] [])
    [] = some ([0x00, 0x00, 0x00, 0xFF, 0x00, 0x8001, 2], []) := by decide

theorem test_sei_V45_12 : outcome { start 0x8000 [0x78] [] with p := 0x00 }
    [] = some ([0x00, 0x00, 0x00, 0xFF, 0x04, 0x8001, 2], []) := by decide

theorem test_cld_V45_13 : outcome { start 0x8000 [0xD8] [] with p := 0x0C }
    [] = some ([0x00, 0x00, 0x00, 0xFF, 0x04, 0x8001, 2], []) := by decide

theorem test_sed_V45_14 : outcome (start 0x8000 [0xF8] [])
    [] = some ([0x00, 0x00, 0x00, 0xFF, 0x0C, 0x8001, 2], []) := by decide

theorem test_clv_V45_15 : outcome { start 0x8000 [0xB8] [] with p := 0x44 }
    [] = some ([0x00, 0x00, 0x00, 0xFF, 0x04, 0x8001, 2], []) := by decide

theorem test_unassigned_V45_18 : outcome (start 0x8000 [0x80, 0x12] [])
    [] = some ([0x00, 0x00, 0x00, 0xFF, 0x04, 0x8001, 2], []) := by decide

theorem test_brk_V45_20 : outcome { start 0x8000 [0x00] [(0xFFFE, 0x34), (0xFFFF, 0x12)] with p := 0xC3, sp := 0x01 }
    [0x0101, 0x0100, 0x01FF] = some ([0x00, 0x00, 0x00, 0xFE, 0xC7, 0x1234, 7], [0x80, 0x02, 0xF3]) := by decide

theorem test_brk_V45_23 : outcome (quiet (start 0x0200 [0x00] []))
    [0x01FF, 0x01FE, 0x01FD] = some ([0x00, 0x00, 0x00, 0xFC, 0x04, 0x3434, 7], [0x02, 0x02, 0x34]) := by decide

theorem test_rti_V45_21 : outcome { start 0x8000 [0x40] [(0x01FD, 0x34), (0x01FE, 0x02), (0x01FF, 0x80)] with sp := 0xFC }
    [] = some ([0x00, 0x00, 0x00, 0xFF, 0x34, 0x8002, 6], []) := by decide

/-! ### The bus, reset and the gate (95, 2.6 to 2.8, S3, S4) -/

theorem test_bus_mirror_S3 :
    let s := State.reset.busWrite 0x0812 0xAB
    (s.busRead 0x0012).1 = 0xAB ∧ (s.busRead 0x1012).1 = 0xAB ∧ (s.busRead 0x1812).1 = 0xAB ∧
    s.addrLatch = 0x0812 ∧ s.dataLatch = 0xAB ∧ Memory.get s.ram 0x0812 = Config.ramInit 0x0812 :=
  ⟨by decide, by decide, by decide, by decide, by decide, rfl⟩

/-- Two peripherals at 0x3000, A before B. -/
def twoReaders (a b : List Host.Cell) : State :=
  ((quiet State.reset).registerRead (.fixed a)).registerRead (.fixed b)

theorem test_bus_first_match_S4 :
    ((twoReaders [(0x3000, 0x10)] [(0x3000, 0x20)]).busRead 0x3000).1 = 0x10 ∧
    ((twoReaders [] [(0x3000, 0x20)]).busRead 0x3000).1 = 0x20 ∧
    ((twoReaders [] []).busRead 0x3000).1 = State.reset.dataLatch := ⟨by decide, by decide, rfl⟩

theorem test_bus_boundary_B2 :
    let s := (quiet State.reset).busWrite 0x1FFF 0x22
    Memory.get s.ram 0x07FF = 0x22 ∧ (s.busRead 0x2000).1 = 0x22 ∧ (s.busRead 0xFFFF).1 = 0x22 := by decide

theorem test_bus_load_B4 :
    let s := (quiet State.reset).busWrite 0x0012 0x77
    (match load 0x0812 [0xAB] s with
     | .next t => ((t.busRead 0x0812).1, Memory.get t.ram 0x0812, t.dataLatch)
     | _ => (0, 0, 0)) = (0x77, 0xAB, 0x77) := by decide

theorem test_bus_load_overrun_B6 :
    (match load 0xFFFF [0x01, 0x02] State.reset with
     | .refused .loadOverrun => true
     | _ => false) = true := by decide

theorem test_bus_writers_B8 :
    let s := ((quiet State.reset).registerWrite (.external 1)).registerWrite (.external 2)
    (s.busWrite 0x3000 0x07).transcript = [.writeTold 2 0x3000 0x07, .writeTold 1 0x3000 0x07] ∧
    (s.busWrite 0x0010 0x07).transcript = [] := by decide

theorem test_boot_R4 :
    let s := { start 0x9000 [] [(0xFFFC, 0x34), (0xFFFD, 0x12)] with a := 0x12, p := 0xC3, sp := 0x40 }
    s.boot = { s with pc := 0x1234, sp := 0xFF, addrLatch := 0xFFFD, dataLatch := 0x12 } := by decide

/-- Trace N = 1 of 2.8: NOP, one tick, a second tick opens the gate. -/
theorem test_gate_divisor_1 :
    let s := start 0x8000 [0xEA] []
    gate 1 s = some (2, false, 0) ∧ gate 2 s = some (1, false, 0) ∧ gate 3 s = some (0, true, 0) := by decide

/-- Trace N = 3 of 2.8: a tick first, then NOP; the phase carries over. -/
theorem test_gate_divisor_3 :
    let s := { start 0x8000 [0xEA] [] with
      inputs := [.tick], platform := { resetPlatform with tickDivisor := 3 } }
    gate 1 s = some (0, true, 1) ∧ gate 2 s = some (2, false, 1) ∧ gate 3 s = some (2, false, 2) ∧
    gate 4 s = some (1, false, 0) ∧ gate 7 s = some (0, true, 0) := by decide

/-- Interleavings (R280, R286, R288): an instruction, extra ticks and power-off in any order. -/
theorem test_interleaving :
    let s := { start 0x8000 [0xEA, 0xE8] [] with
      inputs := [.tick, .cpu, .cpu, .tick, .tick, .tick, .cpu, .powerOff] }
    gate 2 s = some (2, false, 0) ∧ gate 3 s = some (2, false, 0) ∧ gate 5 s = some (0, true, 0) ∧
    gate 6 s = some (0, true, 0) ∧ gate 7 s = some (2, false, 0) ∧ gate 8 s = some (2, false, 0) ∧
    gate 9 s = none := by decide

/-- A few opcodes run as the first instruction after reset. -/
theorem test_withFetchWord_runs :
    [0x1234BD, 0x000000, 0x0000EA, 0x0210D0, 0x12346C].all (fun w =>
      match step (State.reset.withFetchWord 24 w) with
      | .next _ => true
      | _ => false) = true := by decide

/-! ## Witnesses: states and operands that meet the hypotheses of each obligation -/

/-- The default start with nothing placed. -/
def base : State := start 0x8000 [] []

theorem test_witness_DecodeOfEncodeIsTheInstruction : (Instr.jmp (.ind 0xFFFF)).wellFormed = true := by decide

theorem test_witness_DecodedInstructionEncodesBack :
    decode [0x6C, 0xFF, 0x02, 0x00] = .ok (.jmp (.ind 0x02FF), [0x00]) := rfl

theorem test_witness_CycleCostsOfOperandForms_read :
    (∃ t, exec (.lda (.abx 0x12FF)) { base with x := 1 } = .next t) ∧
    (State.place (.abx 0x12FF) { base with x := 1 }).1.cross = true ∧
    (State.place (.abx 0x12FF) base).1.cross = false := ⟨⟨_, rfl⟩, by decide⟩

theorem test_witness_CycleCostsOfOperandForms_store : ∃ t, exec (.sta (.aby 0xFFFF)) base = .next t := ⟨_, rfl⟩

theorem test_witness_CycleCostsOfOperandForms_rmw : ∃ t, exec (.ror .acc) base = .next t := ⟨_, rfl⟩

theorem test_witness_RamIsMirroredAndReadsBack :
    (0x1FFF#16).toNat < 0x2000 ∧ (0x07FF#16).toNat < 0x2000 := by decide

/-- A written-out peripheral declines, the next one answers. -/
theorem test_witness_FirstAnsweringInterceptorWins :
    0x2000 ≤ (0x2000#16).toNat ∧
    (twoReaders [] [(0x2000, 0x20)]).platform.readInterceptors = [.fixed []] ++ .fixed [(0x2000, 0x20)] :: [] ∧
    (∀ l g r, ([.fixed []] : List ReadInterceptor) = l ++ g :: r →
      readerAnswer g 0x2000 [] ((l.flatMap fun g => readerCall g 0x2000 none).reverse ++ []) = none) ∧
    readerAnswer (.fixed [(0x2000, 0x20)]) 0x2000 [] [] = some 0x20 := by
  refine ⟨by decide, by decide, fun l g r h => ?_, by decide⟩
  have hl : l = [] := by
    cases l with
    | nil => rfl
    | cons _ l => simp at h
  subst hl
  simp only [List.nil_append, List.cons.injEq] at h
  rw [← h.1]
  rfl

/-- With an external peripheral in front of FlatMem, whatever it answers: it answers, or FlatMem does. -/
theorem test_witness_FirstAnsweringInterceptorWins_external (id : Nat) :
    (∃ v, readerAnswer (.external id) 0xFFFF [] [] = some v) ∨
    (readerAnswer (.external id) 0xFFFF [] [] = none ∧
      readerAnswer .flatMem 0xFFFF [] (readerCall (.external id) 0xFFFF none) = some (Config.ramInit 0xFFFF)) := by
  cases h : readerAnswer (.external id) 0xFFFF [] [] with
  | none => exact .inr ⟨rfl, rfl⟩
  | some v => exact .inl ⟨v, rfl⟩

/-- Its other two clauses: an address of RAM, and a list that declines (the empty one). -/
theorem test_witness_FirstAnsweringInterceptorWins_others :
    (0x1FFF#16).toNat < 0x2000 ∧ 0x2000 ≤ (0x2000#16).toNat ∧ (quiet base).platform.readInterceptors = [] ∧
    (∀ l g r, ([] : List ReadInterceptor) = l ++ g :: r → readerAnswer g 0x2000 [] [] = none) :=
  ⟨by decide, by decide, by decide, fun l g r h => by simp at h⟩

theorem test_witness_OpenBusReturnsTheLastByte :
    let s := quiet base
    0x2000 ≤ (0x2000#16).toNat ∧ s.platform.readInterceptors = [] ∧ (s.answer 0x2000).1 = none ∧
    ((s.busWrite 0x1FFF 0x22).answer 0x2000).1 = none ∧ ((s.busRead 0x1FFF).2.answer 0x2000).1 = none ∧
    .flatMem ∉ s.platform.writeInterceptors := by decide

theorem test_witness_WriteCallsEveryInterceptor :
    0x2000 ≤ (0x2000#16).toNat ∧ .flatMem ∉ (quiet base).platform.writeInterceptors ∧
    (0x1FFF#16).toNat < 0x2000 := by decide

theorem test_witness_FlatMemIsAFlatMemory :
    base.platform.readInterceptors = [.flatMem] ∧
    base.platform.writeInterceptors = [.flatMem] ∧ 0x2000 ≤ (0x2000#16).toNat ∧
    (0x2000#16).toNat + [0xAB#8].length ≤ 65536 := by decide

/-- A PPU peripheral that answers at 0x0010, registered alone; and the empty list. -/
theorem test_witness_PpuChannelIsIsolated :
    let f : PpuInterceptor := .fixed [(0x0010, 0x5A)]
    (base.registerPpuRead f).platform.ppuReadInterceptors = [] ++ f :: [] ∧
    (∀ l g r, ([] : List PpuInterceptor) = l ++ g :: r → ppuReaderAnswer g 0x0010 [] = none) ∧
    ppuReaderAnswer f 0x0010 [] = some 0x5A ∧
    ((base.registerPpuRead f).ppuRead 0x0010).1 = 0x5A ∧
    base.platform.ppuReadInterceptors = [] := by
  refine ⟨by decide, fun l g r h => ?_, by decide, by decide, by decide⟩
  simp at h

theorem test_witness_LoadCopiesBytesIntoTheArray :
    (0xFFFF#16).toNat + [0xAB#8].length ≤ 65536 ∧
    65536 < (0xFFFF#16).toNat + [0xAB#8, 0xCD#8].length := by decide

theorem test_witness_LoadsPutTheOperandIntoTheRegister :
    (Instr.lda (.izy 0xFF)).wellFormed = true ∧ (Instr.ldx (.aby 0xFFFF)).wellFormed = true ∧
    (Instr.ldy (.abx 0xFFFF)).wellFormed = true := by decide

/-- Each register's store, one below 0x2000 and one above; the store's cell exists. -/
theorem test_witness_StoresWriteTheRegisterAtTheAddress :
    (Instr.sta (.abx 0x1FFF)).wellFormed = true ∧ (Instr.stx (.zpy 0xFF)).wellFormed = true ∧
    (Instr.sty (.abs 0xFFFF)).wellFormed = true ∧
    base.storeIndex 0x1FFF = some 0x7FF ∧ base.storeIndex 0x2000 = some 0x2000 := by decide

theorem test_witness_AdcAddsWithCarry : (Instr.adc (.izx 0xFF)).wellFormed = true := by decide

theorem test_witness_SbcSubtractsWithBorrow : (Instr.sbc (.izy 0xFF)).wellFormed = true := by decide

theorem test_witness_OverflowMeansSignedOverflow :
    (∃ t, exec (.adc (.imm 0x80)) { base with a := 0x80 } = .next t) ∧
    (∃ t, exec (.sbc (.imm 0x7F)) { base with a := 0x80 } = .next t) := ⟨⟨_, rfl⟩, ⟨_, rfl⟩⟩

theorem test_witness_DecimalFlagChangesNoResult :
    (.adc (.imm 0x01) ∉ ([.php, .brk] : List Instr) ∧ Flag.d ∉ flagsWritten (.adc (.imm 0x01)) ∧
      ∃ t, exec (.adc (.imm 0x01)) { base with a := 0x09 } = .next t) ∧
    (.cld ∉ ([.php, .brk] : List Instr) ∧ Flag.d ∈ flagsWritten .cld ∧ ∃ t, exec .cld base = .next t) :=
  ⟨⟨by decide, by decide, ⟨_, rfl⟩⟩, ⟨by decide, by decide, ⟨_, rfl⟩⟩⟩

theorem test_witness_ComparesSetFlagsOnly :
    (Instr.cmp (.imm 0xFF)).wellFormed = true ∧ (Instr.cpx (.zp 0xFF)).wellFormed = true ∧
    (Instr.cpy (.abs 0xFFFF)).wellFormed = true := by decide

/-- `wroteBack`'s inner hypothesis: the operand's cell, at the edge of RAM and beyond. -/
theorem test_witness_IncDecModifyMemory :
    (Instr.inc (.abx 0x1FFE)).wellFormed = true ∧ (Instr.dec (.zpx 0xFF)).wellFormed = true ∧
    0x7FF ∈ State.placeCells (.abx 0x1FFE) { base with x := 1 } ∧
    0x2000 ∈ State.placeCells (.abx 0x1FFF) { base with x := 1 } := by decide

theorem test_witness_LogicWorksBitByBit :
    (Instr.and (.izx 0xFF)).wellFormed = true ∧ (Instr.ora (.aby 0xFFFF)).wellFormed = true ∧
    (Instr.eor (.izy 0xFF)).wellFormed = true ∧ 7 < 8 := by decide

theorem test_witness_BitTestsTheOperand : (Instr.bit (.abs 0xFFFF)).wellFormed = true := by decide

/-- Both places a shift writes back to: `A`, and a cell. -/
theorem test_witness_LeftShiftsDouble :
    (Instr.asl .acc).wellFormed = true ∧ (Instr.rol (.zp 0xFF)).wellFormed = true ∧
    0xFF ∈ State.placeCells (.zp 0xFF) base := by decide

theorem test_witness_RightShiftsHalve :
    (Instr.lsr (.zpx 0xFF)).wellFormed = true ∧ (Instr.ror .acc).wellFormed = true ∧
    0xFF ∈ State.placeCells (.zpx 0xFF) base := by decide

theorem test_witness_NopAndUnassignedChangeNothing : 0x02 ∈ unassignedBytes ∧ 0xFF ∈ unassignedBytes := by decide

theorem test_witness_BrkEntersTheHandler :
    base.platform.readInterceptors.head? = some .flatMem ∧
    (quiet base).platform.readInterceptors = [] := by decide

theorem test_witness_EveryInstructionCompletes :
    (Instr.unassigned 0xFF).wellFormed = true ∧ (Instr.unassigned 0x00).wellFormed = false := by decide

theorem test_witness_OnlyListedStateChanges :
    (∃ t, exec .pla { base with sp := 0xFF } = .next t) ∧ writesPc .pla = false ∧
    Memory.wf base.ram = true := ⟨⟨_, rfl⟩, by decide⟩

theorem test_witness_BreakAndUnusedAreNotObservable :
    base.keepsFlags [.b, .u] (base.setP 0x34) ∧ ∃ t, exec (.adc (.imm 0)) base = .next t :=
  ⟨fun f => by cases f <;> decide, ⟨_, rfl⟩⟩

theorem test_witness_TimingIsNotArchitectural : ∃ t, exec .inx base = .next t := ⟨_, rfl⟩

/-- NOP at the top of the address space, the CPU's turn by default and by the list. -/
theorem test_witness_StepRunsTheDecodedInstruction :
    let s := start 0xFFFF [0xEA] []
    s.cpuEnabled ∧ (s.setInputs [.cpu, .powerOff]).cpuEnabled ∧
    (s.turnTaken.setReady false).fetch.1 = [0xEA] ∧ decode [0xEA] = .ok (.nop, []) ∧
    s.platform.testStatus = none :=
  ⟨⟨⟨rfl, rfl⟩, rfl, .inl rfl⟩, ⟨⟨rfl, rfl⟩, rfl, .inr rfl⟩, by decide, rfl, rfl⟩

theorem test_witness_StepRunsTheDecodedInstruction_exec :
    ∃ t, exec .nop ((start 0xFFFF [0xEA] []).turnTaken.setReady false).fetch.2 = .next t := ⟨_, rfl⟩

/-- A turn of each kind, and the closed gate with none laid down. -/
theorem test_witness_StepRunsTheDecodedInstruction_turns :
    (base.setReady false).running ∧ (base.setReady false).inputs = [] ∧ (base.setReady false).ready = false ∧
    [.cpu, .tick, .powerOff, .boot, .ppuRead 0xFFFF].all (fun i => (base.setInputs [i]).inputs == i :: []) = true :=
  ⟨⟨rfl, rfl⟩, rfl, rfl, by decide⟩

theorem test_witness_FetchReadsTheInstructionAtPc :
    (entryAt ((start 0xFFFF [0xEA] []).busRead 0xFFFF).1).mode.operandBytes = 0 ∧
    (entryAt ((start 0xFFFF [0xA9] []).busRead 0xFFFF).1).mode.operandBytes = 1 ∧
    (entryAt ((start 0xFFFF [0x4C] []).busRead 0xFFFF).1).mode.operandBytes = 2 := by decide

theorem test_witness_StepStopsOnlyAtPowerOffOrSentinel :
    (base.poweredOn = true ∧ base.runEnded = false) ∧
    ((base.setPoweredOn false).poweredOn = false ∧ (base.setPoweredOn false).runEnded = false) ∧
    (base.setRunEnded true).runEnded = true := by decide

theorem test_witness_PowerOffIsFinal :
    ((base.setInputs [.powerOff]).running ∧ (base.setInputs [.powerOff]).inputs = .powerOff :: []) ∧
    (base.setInputs [.cpu, .powerOff]).cpuEnabled ∧
    (base.setInputs [.cpu, .powerOff]).inputs = .cpu :: .powerOff :: [] :=
  ⟨⟨⟨rfl, rfl⟩, rfl⟩, ⟨⟨rfl, rfl⟩, rfl, .inr rfl⟩, rfl⟩

/-- The instruction in that clause completes and the test loop has not ended. -/
theorem test_witness_PowerOffIsFinal_instruction :
    ∃ t, step ((start 0x8000 [0xEA] []).setInputs [.cpu, .powerOff]) = .next t ∧ t.runEnded = false :=
  ⟨_, rfl, rfl⟩

theorem test_witness_PowerOffIsFinal_step :
    ∃ t, step (base.setInputs [.tick]) = .next t ∧ t.poweredOn = true := ⟨_, rfl, rfl⟩

/-- The loop's byte, among the done bytes and not. -/
theorem test_witness_TestLoopPollsItsByte :
    let polled := fun (v : Byte) =>
      (({ base with platform := { resetPlatform with testStatus := some ⟨0x1FFF, [0x80, 0xFF]⟩ } }).busWrite 0x1FFF
        v).pollTest.runEnded
    base.platform.testStatus = none ∧ polled 0xFF = true ∧ polled 0x7F = false := by decide

theorem test_witness_LaunchParametersNeverChange :
    ∃ t, step (base.setInputs [.ppuRead 0xFFFF]) = .next t := ⟨_, rfl⟩

theorem test_witness_GateTickCountsDown :
    (let s := { base with platform := { resetPlatform with tickDivisor := 3 } }
     s.tickCount + 1 ≠ s.platform.tickDivisor) ∧
    (let s := base.setCyclesPending 2
     s.tickCount + 1 = s.platform.tickDivisor ∧ 1 < s.cyclesPending) ∧
    (let s := base.setCyclesPending 1
     s.tickCount + 1 = s.platform.tickDivisor ∧ s.cyclesPending ≤ 1) := by decide

theorem test_witness_InstructionLeavesTheGateClosed :
    (start 0x8000 [0xEA] []).cpuEnabled ∧ ∃ t, step (start 0x8000 [0xEA] []) = .next t :=
  ⟨⟨⟨rfl, rfl⟩, rfl, .inl rfl⟩, ⟨_, rfl⟩⟩

/-- The longest instruction just done, at the last phase of the divisor. -/
theorem test_witness_GateOpensAfterItsCycles :
    let s := { base with
      cyclesPending := 7, ready := false, tickCount := 2
      platform := { resetPlatform with tickDivisor := 3 } }
    s.inv = true ∧ s.running ∧ s.inputs = [] ∧ s.ready = false := ⟨by decide, ⟨rfl, rfl⟩, rfl, rfl⟩

theorem test_witness_StepKeepsTheInvariant :
    base.inv = true ∧ ∃ t, step (start 0x8000 [0xEA] []) = .next t := ⟨by decide, ⟨_, rfl⟩⟩

theorem test_witness_InvariantHoldsAfterBoot :
    Platform.wf { resetPlatform with tickDivisor := 3, tickCallbacks := [.external 0, .gate] } = true ∧
    Memory.wf [(0xFFFC, 0x00), (0xFFFF, 0x90)] = true := by decide

end Sys2Proof.Machine.Tests
end

section
/-! The state laws of `Boot`, and the obligation on R45's table of values. -/

namespace Sys2Proof.Machine

/-! ## What `Boot` does to each field (R272) -/

section
variable (s : State)

@[simp] theorem State.addrLatch_readPair (lo hi : Addr) : (s.readPair lo hi).2.addrLatch = hi := rfl
@[simp] theorem State.dataLatch_readPair (lo hi : Addr) :
    (s.readPair lo hi).2.dataLatch = ((s.busRead lo).2.busRead hi).1 := rfl

@[simp] theorem State.a_boot : s.boot.a = s.a := by simp [State.boot]
@[simp] theorem State.x_boot : s.boot.x = s.x := by simp [State.boot]
@[simp] theorem State.y_boot : s.boot.y = s.y := by simp [State.boot]
@[simp] theorem State.sp_boot : s.boot.sp = 0xFF := by simp [State.boot]
@[simp] theorem State.p_boot : s.boot.p = s.p := by simp [State.boot]
@[simp] theorem State.ram_boot : s.boot.ram = s.ram := by simp [State.boot]
@[simp] theorem State.platform_boot : s.boot.platform = s.platform := by simp [State.boot]
@[simp] theorem State.cyclesPending_boot : s.boot.cyclesPending = s.cyclesPending := by simp [State.boot]
@[simp] theorem State.ready_boot : s.boot.ready = s.ready := by simp [State.boot]
@[simp] theorem State.tickCount_boot : s.boot.tickCount = s.tickCount := by simp [State.boot]
@[simp] theorem State.poweredOn_boot : s.boot.poweredOn = s.poweredOn := by simp [State.boot]
@[simp] theorem State.runEnded_boot : s.boot.runEnded = s.runEnded := by simp [State.boot]
@[simp] theorem State.inputs_boot : s.boot.inputs = s.inputs := by simp [State.boot]

@[simp] theorem State.addrLatch_boot : s.boot.addrLatch = 0xFFFD := rfl

/-- The data latch is left with the vector's high byte, which is read last (R61, R272). -/
@[simp] theorem State.dataLatch_boot :
    s.boot.dataLatch = ((s.busRead 0xFFFC).2.busRead 0xFFFD).1 := rfl

/-- `PC` is the little-endian word at the reset vector (R68, R272). -/
@[simp] theorem State.pc_boot :
    s.boot.pc = ((s.busRead 0xFFFC).2.busRead 0xFFFD).1 ++ (s.busRead 0xFFFC).1 := rfl

end

/-! ## R45: at construction and after `Boot` -/

/-- Settles O14: the first column is `construction` field by field; in the second, `Boot` gives `S`, `PC`
and the latches their values and keeps every other field, which registration and `load` had not touched. -/
theorem constructionThenBootValues : Obligations.ConstructionThenBootValues := by
  unfold Obligations.ConstructionThenBootValues
  refine ⟨?atConstruction, fun pl m => ?afterBoot⟩
  case atConstruction => simp [State.construction]
  case afterBoot =>
    exact ⟨State.a_boot _, State.x_boot _, State.y_boot _, State.sp_boot _, State.p_boot _,
      State.pc_boot _, State.ram_boot _, State.addrLatch_boot _, State.dataLatch_boot _,
      State.cyclesPending_boot _, State.ready_boot _, State.tickCount_boot _, State.poweredOn_boot _⟩

end Sys2Proof.Machine
end

section
/-! What the bus answers and stores (R55 to R60): asking a list of interceptors in order, reads, writes, and
what FlatMem alone makes of the two (R74). -/

namespace Sys2Proof.Machine

/-! ## Asking in registration order (R58, R70)

The primary bus and the PPU channel walk their lists alike, so the walk is described once, over what an
interceptor answers and what the transcript records of the call. -/

section
variable {α : Type} (answer : α → List Event → Option Byte) (call : α → Option Byte → List Event)

/-- Ask each of a list in order until one answers; every call made goes on top of the transcript. -/
def askInOrder : List α → List Event → Option Byte × List Event
  | [], tr => (none, tr)
  | f :: fs, tr =>
    match answer f tr with
    | some v => (some v, call f (some v) ++ tr)
    | none => askInOrder fs (call f none ++ tr)

/-- The transcript after every one of `l` was called and declined. -/
def afterDeclining (l : List α) (tr : List Event) : List Event :=
  (l.flatMap fun g => call g none).reverse ++ tr

/-- Each of `pre` declines when it is asked after those before it. -/
def AllDecline (pre : List α) (tr : List Event) : Prop :=
  ∀ l g r, pre = l ++ g :: r → answer g (afterDeclining call l tr) = none

variable {answer call}

theorem askInOrder_of_answer {f : α} {v : Byte} {tr : List Event} (h : answer f tr = some v) (fs : List α) :
    askInOrder answer call (f :: fs) tr = (some v, call f (some v) ++ tr) := by
  rw [askInOrder, h]

theorem askInOrder_of_decline {f : α} {tr : List Event} (h : answer f tr = none) (fs : List α) :
    askInOrder answer call (f :: fs) tr = askInOrder answer call fs (call f none ++ tr) := by
  rw [askInOrder, h]

/-- An interceptor's call is at most one event, so the order of the calls is that of the interceptors. -/
theorem afterDeclining_cons {g : α} (hcall : (call g none).reverse = call g none) (l : List α)
    (tr : List Event) :
    afterDeclining call (g :: l) tr = afterDeclining call l (call g none ++ tr) := by
  simp [afterDeclining, hcall]

theorem AllDecline.head {g : α} {pre : List α} {tr : List Event}
    (h : AllDecline answer call (g :: pre) tr) : answer g tr = none :=
  h [] g pre rfl

theorem AllDecline.tail {g : α} {pre : List α} {tr : List Event}
    (hcall : (call g none).reverse = call g none) (h : AllDecline answer call (g :: pre) tr) :
    AllDecline answer call pre (call g none ++ tr) := by
  intro l f r e
  rw [← afterDeclining_cons hcall]
  exact h (g :: l) f r (by rw [e, List.cons_append])

/-- Those that decline are each called once, and the walk goes on behind them. -/
theorem askInOrder_append (hcall : ∀ g, (call g none).reverse = call g none) {pre : List α}
    {tr : List Event} (h : AllDecline answer call pre tr) (post : List α) :
    askInOrder answer call (pre ++ post) tr =
      askInOrder answer call post (afterDeclining call pre tr) := by
  induction pre generalizing tr with
  | nil => rfl
  | cons g pre ih =>
    rw [List.cons_append, askInOrder_of_decline h.head, ih (h.tail (hcall g)),
      afterDeclining_cons (hcall g)]

/-- The first answer wins and nobody behind it is called. -/
theorem askInOrder_first_answer (hcall : ∀ g, (call g none).reverse = call g none) {pre post : List α}
    {f : α} {v : Byte} {tr : List Event} (h : AllDecline answer call pre tr)
    (hf : answer f (afterDeclining call pre tr) = some v) :
    askInOrder answer call (pre ++ f :: post) tr =
      (some v, call f (some v) ++ afterDeclining call pre tr) := by
  rw [askInOrder_append hcall h, askInOrder_of_answer hf]

/-- When all decline there is no answer. -/
theorem askInOrder_no_answer (hcall : ∀ g, (call g none).reverse = call g none) {fs : List α}
    {tr : List Event} (h : AllDecline answer call fs tr) :
    askInOrder answer call fs tr = (none, afterDeclining call fs tr) := by
  simpa [askInOrder] using askInOrder_append hcall h []

end

/-- The primary bus asks its list in order (R58). -/
theorem askReaders_eq_askInOrder (fs : List ReadInterceptor) (a : Addr) (m : Memory) (tr : List Event) :
    askReaders fs a m tr = askInOrder (readerAnswer · a m) (readerCall · a) fs tr := by
  induction fs generalizing tr with
  | nil => rfl
  | cons f fs ih =>
    cases f with
    | flatMem => rfl
    | fixed cells =>
      simp only [askReaders, askInOrder, readerAnswer, readerCall, ih]
      cases fixedAnswer cells a <;> rfl
    | external id =>
      simp only [askReaders, askInOrder, readerAnswer, readerCall, ih]
      cases Config.readAnswer id tr a <;> rfl

/-- The PPU channel asks its own list in order (R70). -/
theorem askPpu_eq_askInOrder (fs : List PpuInterceptor) (a : Addr) (tr : List Event) :
    askPpu fs a tr = askInOrder (ppuReaderAnswer · a) (ppuReaderCall · a) fs tr := by
  induction fs generalizing tr with
  | nil => rfl
  | cons f fs ih =>
    cases f with
    | fixed cells =>
      simp only [askPpu, askInOrder, ppuReaderAnswer, ppuReaderCall, ih]
      cases fixedAnswer cells a <;> rfl
    | external id =>
      simp only [askPpu, askInOrder, ppuReaderAnswer, ppuReaderCall, ih]
      cases Config.ppuAnswer id tr a <;> rfl

@[simp] theorem reverse_readerCall (g : ReadInterceptor) (a : Addr) (r : Option Byte) :
    (readerCall g a r).reverse = readerCall g a r := by
  cases g <;> rfl

@[simp] theorem reverse_ppuReaderCall (g : PpuInterceptor) (a : Addr) (r : Option Byte) :
    (ppuReaderCall g a r).reverse = ppuReaderCall g a r := by
  cases g <;> rfl

/-! ## Reads (R55, R56, R58, R59) -/

theorem isRam_of_lt {a : Addr} (h : a.toNat < 0x2000) : isRam a = true := decide_eq_true h

theorem isRam_of_le {a : Addr} (h : 0x2000 ≤ a.toNat) : isRam a = false :=
  decide_eq_false (Nat.not_lt.mpr h)

section
variable {s : State} {a : Addr}

theorem State.answer_of_lt (h : a.toNat < 0x2000) :
    s.answer a = (some (Memory.get s.ram (a.toNat % 0x800)), s.transcript) := by
  rw [State.answer, if_pos (isRam_of_lt h), ramIndex]

theorem State.answer_of_le (h : 0x2000 ≤ a.toNat) :
    s.answer a =
      askInOrder (readerAnswer · a s.ram) (readerCall · a) s.platform.readInterceptors s.transcript := by
  rw [State.answer, isRam_of_le h, if_neg Bool.false_ne_true, askReaders_eq_askInOrder]

/-- A read that is answered gives the answer. -/
theorem State.busRead_of_answer {v : Byte} {calls : List Event} (h : s.answer a = (some v, calls)) :
    s.busRead a = (v, ((s.setTranscript calls).setAddrLatch a).setDataLatch v) := by
  simp [State.busRead, h]

/-- A read that nobody answers gives the data latch (R59). -/
theorem State.busRead_of_no_answer {calls : List Event} (h : s.answer a = (none, calls)) :
    s.busRead a = (s.dataLatch, ((s.setTranscript calls).setAddrLatch a).setDataLatch s.dataLatch) := by
  simp [State.busRead, h]

theorem State.busRead_open_bus (h : (s.answer a).1 = none) : (s.busRead a).1 = s.dataLatch := by
  rw [State.busRead_of_no_answer (calls := (s.answer a).2) (Prod.ext h rfl)]

end

/-! ## Writes (R56, R60) -/

/-- What the transcript records of a call of a write interceptor. -/
def writerCall (a : Addr) (v : Byte) : WriteInterceptor → Option Event
  | .external id => some (.writeTold id a v)
  | .flatMem => none

/-- Every external write interceptor is called once, in registration order (R60). -/
theorem tellWriters_transcript (gs : List WriteInterceptor) (a : Addr) (v : Byte) (m : Memory)
    (tr : List Event) :
    (tellWriters gs a v m tr).2 = (gs.filterMap (writerCall a v)).reverse ++ tr := by
  induction gs generalizing m tr with
  | nil => rfl
  | cons g gs ih => cases g <;> simp [tellWriters, ih, writerCall, List.filterMap_cons]

/-- Only FlatMem stores into the array (R74). -/
theorem tellWriters_ram_of_no_flatMem {gs : List WriteInterceptor} (h : .flatMem ∉ gs) (a : Addr) (v : Byte)
    (m : Memory) (tr : List Event) : (tellWriters gs a v m tr).1 = m := by
  induction gs generalizing tr with
  | nil => rfl
  | cons g gs ih =>
    rw [List.mem_cons, not_or] at h
    obtain ⟨hg, hgs⟩ := h
    cases g with
    | flatMem => exact absurd rfl hg
    | external id => exact ih hgs _

section
variable (s : State) {a : Addr} (v : Byte)

theorem State.stored_of_lt (h : a.toNat < 0x2000) :
    s.stored a v = (Memory.set s.ram (a.toNat % 0x800) v, s.transcript) := by
  rw [State.stored, if_pos (isRam_of_lt h), ramIndex]

theorem State.stored_of_le (h : 0x2000 ≤ a.toNat) :
    s.stored a v = tellWriters s.platform.writeInterceptors a v s.ram s.transcript := by
  rw [State.stored, isRam_of_le h, if_neg Bool.false_ne_true]

theorem State.ram_busWrite : (s.busWrite a v).ram = (s.stored a v).1 := rfl
theorem State.transcript_busWrite : (s.busWrite a v).transcript = (s.stored a v).2 := rfl

/-- A write below 0x2000 calls nobody (R55). -/
theorem State.transcript_busWrite_of_lt (h : a.toNat < 0x2000) :
    (s.busWrite a v).transcript = s.transcript := by
  rw [State.transcript_busWrite, s.stored_of_lt v h]

/-- A write below 0x2000 stores into the mirrored cell and no other (R56). -/
theorem State.get_busWrite_of_lt (h : a.toNat < 0x2000) (k : Nat) :
    Memory.get (s.busWrite a v).ram k = if k = a.toNat % 0x800 then v else Memory.get s.ram k := by
  rw [State.ram_busWrite, s.stored_of_lt v h, Memory.get_set]
  exact if_congr eq_comm rfl rfl

/-- A write from 0x2000 up calls every external write interceptor (R60). -/
theorem State.transcript_busWrite_of_le (h : 0x2000 ≤ a.toNat) :
    (s.busWrite a v).transcript =
      (s.platform.writeInterceptors.filterMap (writerCall a v)).reverse ++ s.transcript := by
  rw [State.transcript_busWrite, s.stored_of_le v h, tellWriters_transcript]

/-- A write that nobody owns is dropped (R59). -/
theorem State.ram_busWrite_of_no_flatMem (h : 0x2000 ≤ a.toNat)
    (hw : .flatMem ∉ s.platform.writeInterceptors) : (s.busWrite a v).ram = s.ram := by
  rw [State.ram_busWrite, s.stored_of_le v h, tellWriters_ram_of_no_flatMem hw]

/-- What a write leaves in each cell, by where it stores. -/
theorem State.get_busWrite (k : Nat) :
    Memory.get (s.busWrite a v).ram k = if s.storeIndex a = some k then v else Memory.get s.ram k := by
  split
  · next h => exact s.get_busWrite_same v h
  · next h => exact s.get_busWrite_ne v h

end

/-! ## FlatMem (R74) -/

/-- The cell FlatMem and the RAM mirrors give an address. -/
def flatCell (a : Addr) : Nat := if a.toNat < 0x2000 then a.toNat % 0x800 else a.toNat

section
variable {s : State}

theorem State.busRead_flatCell (hr : s.platform.readInterceptors = [.flatMem]) (a : Addr) :
    (s.busRead a).1 = Memory.get s.ram (flatCell a) := by
  unfold flatCell
  split
  · next h => exact (s.busRead_ram (isRam_of_lt h)).1
  · next h => exact (s.busRead_flat (isRam_of_le (Nat.not_lt.mp h)) (by rw [hr]; rfl)).1

theorem State.storeIndex_flatCell (hw : s.platform.writeInterceptors = [.flatMem]) (a : Addr) :
    s.storeIndex a = some (flatCell a) := by
  by_cases h : a.toNat < 0x2000
  · rw [flatCell, if_pos h, State.storeIndex, if_pos (isRam_of_lt h), ramIndex]
  · rw [flatCell, if_neg h, State.storeIndex, isRam_of_le (Nat.not_lt.mp h), hw]
    rfl

theorem State.get_busWrite_flatCell (hw : s.platform.writeInterceptors = [.flatMem]) (a : Addr) (v : Byte)
    (k : Nat) :
    Memory.get (s.busWrite a v).ram k = if flatCell a = k then v else Memory.get s.ram k := by
  simp only [s.get_busWrite, State.storeIndex_flatCell hw, Option.some.injEq]

/-- What `load` puts from 0x2000 up is what a read there gives. -/
theorem State.busRead_setAll (hr : s.platform.readInterceptors = [.flatMem]) {a : Addr} {data : List Byte}
    (ha : 0x2000 ≤ a.toNat) (hlen : a.toNat + data.length ≤ 65536) {n : Nat} (hn : n < data.length) :
    ((s.setRam (Memory.setAll s.ram a.toNat data)).busRead (BitVec.ofNat 16 (a.toNat + n))).1 = data[n] := by
  have htoNat : (BitVec.ofNat 16 (a.toNat + n)).toNat = a.toNat + n := by
    rw [BitVec.toNat_ofNat]; omega
  have hcell : flatCell (BitVec.ofNat 16 (a.toNat + n)) = a.toNat + n := by
    rw [flatCell, htoNat, if_neg (by omega)]
  have hread := State.busRead_flatCell (s := s.setRam (Memory.setAll s.ram a.toNat data)) hr
  rw [hread, hcell]
  exact Memory.get_setAll data hn

end

/-! ## `load` (R67) -/

theorem load_of_le {start : Addr} {data : List Byte} (h : start.toNat + data.length ≤ 65536) (s : State) :
    load start data s = .next (s.setRam (Memory.setAll s.ram start.toNat data)) := if_pos h

theorem load_of_gt {start : Addr} {data : List Byte} (h : 65536 < start.toNat + data.length) (s : State) :
    load start data s = .refused .loadOverrun := if_neg (Nat.not_le.mpr h)

end Sys2Proof.Machine
end

section
/-! The obligations on the bus, the PPU channel and `load` (spec/20_memory.md). -/

namespace Sys2Proof.Machine

/-- Settles O6: both accesses go to the cell `addr mod 0x0800`, so a read after a write sees the byte at
all four mirrors of its address. -/
theorem ramIsMirroredAndReadsBack : Obligations.RamIsMirroredAndReadsBack := by
  unfold Obligations.RamIsMirroredAndReadsBack
  intro a b v s ha hb
  have hread : ∀ t : State, (t.busRead b).1 = Memory.get t.ram (b.toNat % 0x800) :=
    fun t => (t.busRead_ram (isRam_of_lt hb)).1
  have hwrite := s.get_busWrite_of_lt v ha
  refine ⟨hread s, (s.busRead_ram (isRam_of_lt hb)).2, s.transcript_busWrite_of_lt v ha, hwrite, ?_⟩
  rw [hread, hread, hwrite]
  exact if_congr eq_comm rfl rfl

/-- Settles O7: the bus asks its list in order (`askInOrder`), and the byte read is the first answer, or the
data latch if there is none. -/
theorem firstAnsweringInterceptorWins : Obligations.FirstAnsweringInterceptorWins := by
  unfold Obligations.FirstAnsweringInterceptorWins
  intro a s
  refine ⟨fun h => State.busRead_of_answer (State.answer_of_lt h), ?answered, ?allDecline⟩
  case answered =>
    intro h pre f post v hlist hpre hf
    apply State.busRead_of_answer
    rw [State.answer_of_le h, hlist]
    exact askInOrder_first_answer (fun g => reverse_readerCall g a none) hpre hf
  case allDecline =>
    intro h hall
    apply State.busRead_of_no_answer
    rw [State.answer_of_le h]
    exact askInOrder_no_answer (fun g => reverse_readerCall g a none) hall

/-- Settles O8: an unanswered read gives the data latch, and every access leaves its byte there. -/
theorem openBusReturnsTheLastByte : Obligations.OpenBusReturnsTheLastByte := by
  unfold Obligations.OpenBusReturnsTheLastByte
  intro a b v s h
  refine ⟨fun hnobody => ?_, State.busRead_open_bus, State.busRead_open_bus, State.busRead_open_bus,
    s.ram_busWrite_of_no_flatMem v h⟩
  rw [State.answer_of_le h, hnobody, askInOrder]

/-- Settles O9: from 0x2000 up by the walk over the write interceptors (`writerCall`), below by the mirrored
store. -/
theorem writeCallsEveryInterceptor : Obligations.WriteCallsEveryInterceptor := by
  unfold Obligations.WriteCallsEveryInterceptor
  intro a v s
  exact ⟨s.transcript_busWrite_of_le v, s.ram_busWrite_of_no_flatMem v, s.transcript_busWrite_of_lt v,
    s.get_busWrite_of_lt v, s.addrLatch_busWrite a v, s.dataLatch_busWrite a v⟩

/-- Settles O10: reads and writes both go to `flatCell` of the address, which from 0x2000 up is the index
`load` copies to. -/
theorem flatMemIsAFlatMemory : Obligations.FlatMemIsAFlatMemory := by
  unfold Obligations.FlatMemIsAFlatMemory
  intro a b v s hr hw
  have hwrite := State.get_busWrite_flatCell hw a v
  refine ⟨State.busRead_flatCell hr a, ?readBack, fun k hk => ?frame, fun data ha hlen => ?loaded⟩
  case readBack =>
    rw [State.busRead_flatCell (s := s.busWrite a v) hr, State.busRead_flatCell hr, hwrite]
    rfl
  case frame => exact (hwrite k).trans (if_neg (Ne.symm hk))
  case loaded => exact ⟨_, load_of_le hlen s, fun n hn => State.busRead_setAll hr ha hlen hn⟩

/-- Settles O11: the channel asks its own list in order (`askInOrder`) and leaves its calls and the reply in
the transcript; where nobody answers, the reply is the free value `Config.ppuNoAnswer`. -/
theorem ppuChannelIsIsolated : Obligations.PpuChannelIsIsolated := by
  unfold Obligations.PpuChannelIsIsolated
  intro a s
  refine ⟨?answered, fun hall => ?allDecline⟩
  case answered =>
    intro pre f post v hlist hpre hf
    have hask := askInOrder_first_answer (post := post) (fun g => reverse_ppuReaderCall g a none) hpre hf
    rw [← hlist, ← askPpu_eq_askInOrder] at hask
    simp only [State.ppuRead, hask, Option.getD_some]
    rfl
  case allDecline =>
    have hask := askInOrder_no_answer (fun g => reverse_ppuReaderCall g a none) hall
    rw [← askPpu_eq_askInOrder] at hask
    refine ⟨(s.ppuRead a).1, ?_⟩
    simp only [State.ppuRead, hask]
    rfl

/-- Settles O12: `load` is `Memory.setAll` on the array, which is exact inside its range and outside. -/
theorem loadCopiesBytesIntoTheArray : Obligations.LoadCopiesBytesIntoTheArray := by
  unfold Obligations.LoadCopiesBytesIntoTheArray
  intro start data s
  exact ⟨fun h => ⟨_, load_of_le h s, fun _ hn => Memory.get_setAll data hn,
    fun _ hk => Memory.get_setAll_ne data hk⟩, fun h => load_of_gt h s⟩

end Sys2Proof.Machine
end

section
/-! The launch parameters: registration appends, and no step changes them (R6, R64). -/

namespace Sys2Proof.Machine

@[simp] theorem State.platform_tick (s : State) : s.tick.platform = s.platform := by
  obtain ⟨n, r, k, tr, h⟩ := s.tick_only
  rw [h]; rfl

@[simp] theorem State.platform_ppuRead (a : Addr) (s : State) : (s.ppuRead a).2.platform = s.platform := rfl

@[simp] theorem State.platform_turnTaken (s : State) : s.turnTaken.platform = s.platform := rfl

/-- Fetch, effect and poll each keep the launch parameters. -/
theorem instructionStep_platform {s t : State} (h : instructionStep s = .next t) :
    t.platform = s.platform := by
  obtain ⟨i, rest, u, -, hexec, rfl⟩ := instructionStep_eq_next h
  obtain ⟨hpoll, -⟩ := u.pollTest_keeps
  obtain ⟨e, -, rfl⟩ := exec_eq_next hexec
  obtain ⟨heffect, -⟩ := effect_keepsRun i s.closeGate.fetch.2
  obtain ⟨⟨hfetch, -⟩, -⟩ := s.closeGate.fetch_keeps
  calc
    _ = (effect i s.closeGate.fetch.2).platform := hpoll
    _ = s.closeGate.fetch.2.platform := heffect
    _ = s.platform := hfetch

/-- Whichever agent's turn a step is, the launch parameters stay (R6). -/
theorem step_platform {s t : State} (h : step s = .next t) : t.platform = s.platform := by
  obtain ⟨-, ⟨-, hcpu⟩ | ⟨-, -, rfl⟩ | ⟨-, rfl⟩ | ⟨-, rfl⟩ | ⟨-, rfl⟩ | ⟨a, -, rfl⟩⟩ := step_cases h
  case inl => exact (instructionStep_platform hcpu).trans s.platform_turnTaken
  all_goals simp

/-- Settles O55: a registration sets `platform` and nothing else; every kind of turn keeps it. -/
theorem launchParametersNeverChange : Obligations.LaunchParametersNeverChange := by
  unfold Obligations.LaunchParametersNeverChange
  exact ⟨fun s => ⟨fun _ => ⟨rfl, rfl⟩, fun _ => ⟨rfl, rfl⟩, fun _ => ⟨rfl, rfl⟩, fun _ => ⟨rfl, rfl⟩⟩,
    fun _ _ => step_platform⟩

end Sys2Proof.Machine
end

section
/-! What the decoder answers for each opcode byte (R92, R94 to R96, R100), and the obligation that every byte
decodes and executes. -/

namespace Sys2Proof

/-! ## The decoder through the opcode matrix -/

/-- No mode has more than two operand bytes (R92). -/
theorem Mode.operandBytes_le_two (m : Mode) : m.operandBytes ≤ 2 := by
  cases m with
  | opd f => cases f <;> decide
  | rel | imp | stk => decide

/-- The matrix and the table by mnemonic agree: the entry of a byte makes an instruction with that opcode,
whatever its operand bytes (R95, R97). Each of the 256 cells is its own case, where the operand stays free. -/
theorem opcodeOf_make (b b1 b2 : Byte) : opcodeOf ((entryAt b).make b1 b2) = some b := by
  fin_cases b <;> rfl

/-- Two bytes after the opcode are enough to decode (R92, R100). -/
theorem decode_of_three_bytes (b b1 b2 : Byte) : ∃ i rest, decode [b, b1, b2] = .ok (i, rest) := by
  have hle := (entryAt b).mode.operandBytes_le_two
  match hn : (entryAt b).mode.operandBytes with
  | 0 | 1 | 2 => simp [decode, hn]
  | n + 3 => omega

/-- What a byte string decodes to was made by the entry of its first byte. -/
theorem eq_make_of_decode {b : Byte} {bs rest : List Byte} {i : Instr}
    (h : decode (b :: bs) = .ok (i, rest)) : ∃ b1 b2, i = (entryAt b).make b1 b2 := by
  simp only [decode] at h
  split at h <;> cases h <;> exact ⟨_, _, rfl⟩

/-- The decoder keeps the opcode. -/
theorem opcodeOf_of_decode {b : Byte} {bs rest : List Byte} {i : Instr}
    (h : decode (b :: bs) = .ok (i, rest)) : opcodeOf i = some b := by
  obtain ⟨b1, b2, rfl⟩ := eq_make_of_decode h
  exact opcodeOf_make b b1 b2

/-! ## The unassigned bytes (R96) -/

/-- The cells `--` of the matrix are at the bytes of R96 (R95). -/
theorem entryAt_of_mem_unassignedBytes : ∀ b ∈ unassignedBytes, entryAt b = unassignedEntry b :=
  List.map_inj_left.mp rfl

theorem decode_unassigned {b : Byte} (h : b ∈ unassignedBytes) (rest : List Byte) :
    decode (b :: rest) = .ok (.unassigned b, rest) := by
  simp only [decode, entryAt_of_mem_unassignedBytes b h]
  rfl

/-- Only the bytes of R96 have an unassigned instruction in the table by mnemonic. -/
theorem mem_unassignedBytes_of_opcodeOf {b c : Byte} (h : opcodeOf (.unassigned b) = some c) :
    b ∈ unassignedBytes := by
  by_contra hb
  simp [opcodeOf, hb] at h

/-! ## Every byte -/

namespace Machine

/-- Settles O3: three bytes decode to an instruction with the first byte as opcode (`opcodeOf_of_decode`).
So it has a table entry, which is all `exec` needs, and an unassigned instruction was one of R96's bytes. -/
theorem everyByteDecodesAndExecutes : Obligations.EveryByteDecodesAndExecutes := by
  unfold Obligations.EveryByteDecodesAndExecutes
  refine ⟨rfl, by decide, fun b b1 b2 => ⟨?executes, fun hb => decode_unassigned hb _, fun h => ?isUnassigned⟩⟩
  case executes =>
    obtain ⟨i, rest, h⟩ := decode_of_three_bytes b b1 b2
    have hentry : entryOf i = some (entryAt b) := by rw [entryOf, opcodeOf_of_decode h, Option.map_some]
    exact ⟨i, rest, h, fun s => ⟨_, exec_next hentry s⟩⟩
  case isUnassigned => exact mem_unassignedBytes_of_opcodeOf (opcodeOf_of_decode h)

end Machine

end Sys2Proof
end

section
/-! What an instruction of the load, store and transfer families leaves behind, in the terms the claims are
stated in: frames that compose, and the shapes the families share. -/

namespace Sys2Proof

/-! ## The encoding of an instruction with an operand (R90, R97) -/

/-- The "Operands" and "Encoding" lines of a rule say what the table by mnemonic says. -/
theorem encodedAs_of_opcodeOf {f : Operand → Instr} {l : List (Form × Byte)}
    (hop : ∀ o, opcodeOf (f o) = l.lookup o.form) (hbytes : ∀ o, (f o).operandBytes = o.bytes) :
    Machine.EncodedAs f l := by
  intro o
  cases h : l.lookup o.form <;> simp [wellFormed_eq_isSome, encode, hop, hbytes, h]

namespace Machine

/-! ## Frames compose -/

/-- Two changes one after the other leave alone what both leave alone. -/
theorem keeps_append {ι β : Type} {l₁ l₂ : List ι} {f g h : ι → β} (hg : ∀ i, i ∉ l₁ → g i = f i)
    (hh : ∀ i, i ∉ l₂ → h i = g i) : ∀ i, i ∉ l₁ ++ l₂ → h i = f i := by
  intro i hi
  obtain ⟨hi₁, hi₂⟩ := not_or.mp (mt List.mem_append.mpr hi)
  exact (hh i hi₂).trans (hg i hi₁)

section
variable {s t u : State}

theorem State.keepsBut.trans {rs rs' : List Reg} {fs fs' : List Flag} {cs cs' : List Nat}
    (h : s.keepsBut rs fs cs t) (k : t.keepsBut rs' fs' cs' u) :
    s.keepsBut (rs ++ rs') (fs ++ fs') (cs ++ cs') u := by
  obtain ⟨hregs, hflags, hcells, hrun⟩ := h
  obtain ⟨kregs, kflags, kcells, krun⟩ := k
  exact ⟨keeps_append hregs kregs, keeps_append hflags kflags, keeps_append hcells kcells,
    hrun.trans krun⟩

/-- Bus reads change no register, no flag and no cell (R113). -/
theorem State.readsTo.keepsBut (h : s.readsTo t) : s.keepsBut [] [] [] t := by
  obtain ⟨al, dl, evs, rfl⟩ := h
  exact ⟨fun r _ => by cases r <;> rfl, fun _ _ => rfl, fun _ _ => rfl, rfl, rfl, rfl, rfl, rfl, rfl⟩

/-- The resolvers' reads do not change where a write stores. -/
theorem State.readsTo.storeIndex_eq (h : s.readsTo t) (a : Addr) : t.storeIndex a = s.storeIndex a := by
  obtain ⟨al, dl, evs, rfl⟩ := h
  rfl

end

section
variable (s : State)

@[simp] theorem State.reg_setCyclesPending (n : Nat) (r : Reg) : (s.setCyclesPending n).reg r = s.reg r := by
  cases r <;> rfl

@[simp] theorem State.reg_setZN (v : Byte) (r : Reg) : (s.setZN v).reg r = s.reg r := by
  cases r <;> rfl

/-- The cycle count is outside every frame. -/
theorem State.keepsBut_setCyclesPending (n : Nat) : s.keepsBut [] [] [] (s.setCyclesPending n) :=
  ⟨fun r _ => s.reg_setCyclesPending n r, fun _ _ => rfl, fun _ _ => rfl, rfl, rfl, rfl, rfl, rfl, rfl⟩

theorem State.keepsBut_setZN (v : Byte) : s.keepsBut [] [.z, .n] [] (s.setZN v) := by
  refine ⟨fun r _ => s.reg_setZN v r, fun f hf => ?_, fun _ _ => rfl, rfl, rfl, rfl, rfl, rfl, rfl⟩
  exact s.flag_setZN_ne v (List.ne_of_not_mem_cons hf)
    (List.ne_of_not_mem_cons (List.not_mem_of_not_mem_cons hf))

/-- A bus write changes the cell it stores at, if there is one, and no register and no flag (R60). -/
theorem State.keepsBut_busWrite (a : Addr) (v : Byte) :
    s.keepsBut [] [] (s.storeIndex a).toList (s.busWrite a v) := by
  refine ⟨fun r _ => by cases r <;> rfl, fun _ _ => rfl, fun k hk => ?_, rfl, rfl, rfl, rfl, rfl, rfl⟩
  exact s.get_busWrite_ne v (by simpa using hk)

/-! ## A byte into a register, `Z` and `N` from it -/

/-- Write the register `r` names. -/
def State.setReg (r : Reg) (v : Byte) (s : State) : State :=
  match r with
  | .a => s.setA v
  | .x => s.setX v
  | .y => s.setY v
  | .sp => s.setSp v

/-- `r <- v; SetZN(r)`, what loads and transfers end with (R140 to R150). -/
def State.loadReg (r : Reg) (v : Byte) (s : State) : State := (s.setReg r v).setZN v

theorem State.reg_setReg (r q : Reg) (v : Byte) : (s.setReg r v).reg q = if q = r then v else s.reg q := by
  cases r <;> cases q <;> rfl

theorem State.keepsBut_setReg (r : Reg) (v : Byte) : s.keepsBut [r] [] [] (s.setReg r v) := by
  refine ⟨fun q hq => ?regs, fun _ _ => ?flags, fun _ _ => ?cells, ?run⟩
  case regs => rw [s.reg_setReg, if_neg (mt List.mem_singleton.mpr hq)]
  case flags | cells => cases r <;> rfl
  case run => cases r <;> exact ⟨rfl, rfl, rfl, rfl, rfl, rfl⟩

theorem State.keepsBut_loadReg (r : Reg) (v : Byte) : s.keepsBut [r] [.z, .n] [] (s.loadReg r v) :=
  (s.keepsBut_setReg r v).trans (State.keepsBut_setZN _ v)

theorem State.reg_loadReg (r : Reg) (v : Byte) : (s.loadReg r v).reg r = v := by
  simp [State.loadReg, State.reg_setReg]

theorem State.pc_loadReg (r : Reg) (v : Byte) : (s.loadReg r v).pc = s.pc := by
  cases r <;> rfl

theorem State.znOf_setZN (v : Byte) : (s.setZN v).znOf v := by
  simp [State.znOf]

theorem State.busAs_loadReg (r : Reg) (v : Byte) : s.busAs (s.loadReg r v) := by
  cases r <;> exact ⟨rfl, rfl, rfl⟩

variable {s}

/-- An instruction that reads the bus, if at all, and then puts a byte into a register. -/
theorem exec_loadReg {i : Instr} {e : Entry} {u : State} {r : Reg} {v : Byte} (hentry : entryOf i = some e)
    (hreads : s.readsTo u) (heffect : effect i s = u.loadReg r v) :
    ∃ t, exec i s = .next t ∧ t.reg r = v ∧ t.znOf v ∧ s.keepsBut [r] [.z, .n] [] t ∧ t.pc = s.pc ∧
      u.busAs t ∧ t.cyclesPending = e.cycles + penalty i s e := by
  have hframe := hreads.keepsBut.trans (u.keepsBut_loadReg r v)
  have hexec := exec_next hentry s
  rw [heffect] at hexec
  exact ⟨_, hexec, (State.reg_setCyclesPending _ _ r).trans (u.reg_loadReg r v), State.znOf_setZN _ v,
    hframe.trans (State.keepsBut_setCyclesPending _ _), (u.pc_loadReg r v).trans hreads.pc_eq,
    u.busAs_loadReg r v, rfl⟩

/-- A load: the byte is the operand, and the bus is as after the operand's read (R115, R140 to R142). -/
theorem exec_load {i : Instr} {o : Operand} {r : Reg} (hwf : i.wellFormed = true)
    (heffect : effect i s = (s.operand o).2.loadReg r (s.operand o).1) :
    ∃ t, exec i s = .next t ∧ t.reg r = (s.operand o).1 ∧ t.znOf (s.operand o).1 ∧
      s.keepsBut [r] [.z, .n] [] t ∧ t.pc = s.pc ∧ (s.operand o).2.busAs t := by
  obtain ⟨e, hentry⟩ := entryOf_of_wellFormed hwf
  obtain ⟨t, hexec, hreg, hzn, hframe, hpc, hbus, -⟩ := exec_loadReg hentry (s.operand_readsTo o) heffect
  exact ⟨t, hexec, hreg, hzn, hframe, hpc, hbus⟩

/-! ## A register to memory -/

/-- Every form but Accumulator and Immediate has its operand in memory (R116 to R126). -/
theorem State.place_eq_mem {o : Operand} (hform : o.form ∉ [Form.acc, .imm]) (s : State) :
    ∃ ea cross, (s.place o).1 = .mem ea cross := by
  cases o with
  | acc | imm n => simp [Operand.form] at hform
  | _ => exact ⟨_, _, rfl⟩

theorem State.writeBack_mem (ea : Addr) (cross : Bool) (v : Byte) (s : State) :
    s.writeBack (.mem ea cross) v = s.busWrite ea v := rfl

/-- A store: one bus write at `ea`, after the resolver's reads and no other (R115, R143 to R145). -/
theorem exec_store {i : Instr} {o : Operand} {v : Byte} (hwf : i.wellFormed = true)
    (hform : o.form ∉ [Form.acc, .imm]) (heffect : effect i s = (s.place o).2.writeBack (s.place o).1 v) :
    ∃ t ea cross, (s.place o).1 = .mem ea cross ∧ exec i s = .next t ∧
      s.keepsBut [] [] (s.storeIndex ea).toList t ∧ t.pc = s.pc ∧
      (∀ k, s.storeIndex ea = some k → Memory.get t.ram k = v) ∧
      ((s.place o).2.busWrite ea v).busAs t := by
  obtain ⟨e, hentry⟩ := entryOf_of_wellFormed hwf
  obtain ⟨ea, cross, hplace⟩ := State.place_eq_mem hform s
  have hreads := s.place_readsTo o
  have hindex := hreads.storeIndex_eq ea
  have hwrite := (s.place o).2.keepsBut_busWrite ea v
  rw [hindex] at hwrite
  have hexec := exec_next hentry s
  rw [heffect, hplace, State.writeBack_mem] at hexec
  refine ⟨_, ea, cross, hplace, hexec, ?frame, hreads.pc_eq, fun k hk => ?cell, rfl, rfl, rfl⟩
  case frame => simpa using (hreads.keepsBut.trans hwrite).trans (State.keepsBut_setCyclesPending _ _)
  case cell => exact State.get_busWrite_same _ v (hindex.trans hk)

end

end Machine

end Sys2Proof
end

section
/-! The obligations on loads, stores and transfers. -/

namespace Sys2Proof.Machine

/-- Settles O19: the opcodes are those of the table by mnemonic, and each load's effect is `loadReg` of the
operand on the state after its read. -/
theorem loadsPutTheOperandIntoTheRegister : Obligations.LoadsPutTheOperandIntoTheRegister := by
  unfold Obligations.LoadsPutTheOperandIntoTheRegister
  refine ⟨encodedAs_of_opcodeOf (fun o => ?lda) fun _ => rfl, encodedAs_of_opcodeOf (fun o => ?ldx) fun _ => rfl,
    encodedAs_of_opcodeOf (fun o => ?ldy) fun _ => rfl, fun o s => ?meaning⟩
  case lda | ldx | ldy => cases o <;> rfl
  case meaning =>
    exact ⟨fun h => exec_load (r := .a) h rfl, fun h => exec_load (r := .x) h rfl,
      fun h => exec_load (r := .y) h rfl⟩

/-- Settles O20: no store has the Accumulator or the Immediate form, so its place is a cell's address, and
the effect is one bus write there. -/
theorem storesWriteTheRegisterAtTheAddress : Obligations.StoresWriteTheRegisterAtTheAddress := by
  unfold Obligations.StoresWriteTheRegisterAtTheAddress
  refine ⟨encodedAs_of_opcodeOf (fun o => ?sta) fun _ => rfl, encodedAs_of_opcodeOf (fun o => ?stx) fun _ => rfl,
    encodedAs_of_opcodeOf (fun o => ?sty) fun _ => rfl, fun o s => ?meaning⟩
  case sta | stx | sty => cases o <;> rfl
  case meaning =>
    have inMemory {l : List Form} (hl : ∀ f ∈ l, f ∉ [Form.acc, .imm]) (h : l.contains o.form = true) :
        o.form ∉ [Form.acc, .imm] := hl _ (List.contains_iff_mem.mp h)
    exact ⟨fun h => exec_store h (inMemory (by decide) h) rfl, fun h => exec_store h (inMemory (by decide) h) rfl,
      fun h => exec_store h (inMemory (by decide) h) rfl⟩

/-- Settles O21: five transfers are `loadReg` of the source with no bus access before it; TXS writes `S`
alone. -/
theorem transfersCopyOneRegister : Obligations.TransfersCopyOneRegister := by
  unfold Obligations.TransfersCopyOneRegister
  refine ⟨rfl, rfl, rfl, rfl, rfl, rfl, fun s => ⟨?tax, ?tay, ?txa, ?tya, ?tsx, ?txs⟩⟩
  case tax => exact exec_loadReg (r := .x) (e := entryAt 0xAA) rfl (.refl s) rfl
  case tay => exact exec_loadReg (r := .y) (e := entryAt 0xA8) rfl (.refl s) rfl
  case txa => exact exec_loadReg (r := .a) (e := entryAt 0x8A) rfl (.refl s) rfl
  case tya => exact exec_loadReg (r := .a) (e := entryAt 0x98) rfl (.refl s) rfl
  case tsx => exact exec_loadReg (r := .x) (e := entryAt 0xBA) rfl (.refl s) rfl
  case txs =>
    have hframe := (s.keepsBut_setReg .sp s.x).trans (State.keepsBut_setCyclesPending _ 2)
    exact ⟨_, exec_next (e := entryAt 0x9A) rfl s, rfl, hframe, rfl, ⟨rfl, rfl, rfl⟩, rfl⟩

end Sys2Proof.Machine
end

section
/-! What addition, comparison, increment and decrement leave behind: the flags' arithmetic, frames of the shapes
the families share, and a read-modify-write's write-back. -/

namespace Sys2Proof.Machine

/-! ## Bytes as numbers -/

/-- The operand's complement adds as 255 minus the operand, so SBC's sum is the difference plus 256 (R161). -/
theorem addSum_complement (a m : Byte) (c : Bool) :
    (addSum a (m ^^^ 0xFF#8) c : Int) = (a.toNat : Int) - m.toNat - (if c = true then 0 else 1) + 256 := by
  have hm : (m ^^^ 0xFF#8).toNat = 255 - m.toNat := by
    rw [show m ^^^ 0xFF#8 = ~~~m from BitVec.xor_allOnes, BitVec.toNat_not]
  have := m.isLt
  cases c <;> simp [addSum, carryNat, hm] <;> omega

/-- SBC's byte is the difference modulo 256 (R161). -/
theorem addResult_complement (a m : Byte) (c : Bool) :
    addResult a (m ^^^ 0xFF#8) c =
      BitVec.ofInt 8 ((a.toNat : Int) - m.toNat - (if c = true then 0 else 1)) := by
  rw [addResult, ← BitVec.ofInt_natCast, addSum_complement, BitVec.ofInt_add]
  exact BitVec.add_zero _

/-- SBC carries out exactly when it does not borrow (R161). -/
theorem addCarry_complement (a m : Byte) (c : Bool) :
    addCarry a (m ^^^ 0xFF#8) c = true ↔ 0 ≤ (a.toNat : Int) - m.toNat - (if c = true then 0 else 1) := by
  have := addSum_complement a m c
  rw [addCarry, decide_eq_true_eq]
  omega

theorem sub_eq_ofInt (r m : Byte) : r - m = BitVec.ofInt 8 ((r.toNat : Int) - m.toNat) := by
  apply BitVec.eq_of_toNat_eq
  rw [BitVec.toNat_sub, BitVec.toNat_ofInt]
  have := m.isLt
  omega

/-! ## The frames of the flag computations -/

section
variable (s : State)

theorem State.keepsBut_setFlag (f : Flag) (v : Bool) : s.keepsBut [] [f] [] (s.setFlag f v) := by
  refine ⟨fun r _ => by cases r <;> rfl, fun g hg => ?_, fun _ _ => rfl, rfl, rfl, rfl, rfl, rfl, rfl⟩
  exact s.flag_setFlag_ne v fun h => hg (List.mem_singleton.mpr h.symm)

/-- CMP, CPX and CPY write `C`, `Z` and `N` (R162). -/
theorem State.keepsBut_compare (r m : Byte) : s.keepsBut [] [.c, .z, .n] [] (s.compare r m) :=
  (s.keepsBut_setFlag .c _).trans (State.keepsBut_setZN _ _)

/-- Addition writes `A` and four flags (R160). -/
theorem State.keepsBut_addWithCarry (m : Byte) :
    s.keepsBut [.a] [.c, .v, .z, .n] [] (s.addWithCarry m) :=
  ((s.keepsBut_setFlag .c _).trans (State.keepsBut_setFlag _ .v _)).trans (State.keepsBut_loadReg _ .a _)

@[simp] theorem State.pc_compare (r m : Byte) : (s.compare r m).pc = s.pc := rfl
@[simp] theorem State.pc_addWithCarry (m : Byte) : (s.addWithCarry m).pc = s.pc := rfl

theorem State.busAs_compare (r m : Byte) : s.busAs (s.compare r m) := ⟨rfl, rfl, rfl⟩
theorem State.busAs_addWithCarry (m : Byte) : s.busAs (s.addWithCarry m) := ⟨rfl, rfl, rfl⟩

variable {s} in
/-- The cycle count is no part of the bus. -/
theorem State.busAs.setCyclesPending {t : State} (h : s.busAs t) (n : Nat) : s.busAs (t.setCyclesPending n) := h

theorem State.flag_c_compare (r m : Byte) : (s.compare r m).flag .c = decide (m.toNat ≤ r.toNat) := by
  simp [State.compare, State.flag_setZN_ne]

theorem State.flag_c_addWithCarry (m : Byte) :
    (s.addWithCarry m).flag .c = addCarry s.a m (s.flag .c) := by
  simp [State.addWithCarry, State.flag_setZN_ne, State.flag_setFlag]

theorem State.flag_v_addWithCarry (m : Byte) :
    (s.addWithCarry m).flag .v = addOverflow s.a m (s.flag .c) := by
  simp [State.addWithCarry, State.flag_setZN_ne]

end

/-! ## Instructions of the read class -/

section
variable {s : State} {i : Instr} {o : Operand}

/-- What the handler leaves alone after the operand's read, the whole instruction leaves alone (R113, R115). -/
theorem exec_read {regs : List Reg} {flags : List Flag} (hwf : i.wellFormed = true)
    (hframe : (s.operand o).2.keepsBut regs flags [] (effect i s)) :
    ∃ n, exec i s = .next ((effect i s).setCyclesPending n) ∧
      s.keepsBut regs flags [] ((effect i s).setCyclesPending n) := by
  obtain ⟨e, hentry⟩ := entryOf_of_wellFormed hwf
  have hframe' := (s.operand_readsTo o).keepsBut.trans hframe
  have hwhole := hframe'.trans (State.keepsBut_setCyclesPending _ (e.cycles + penalty i s e))
  exact ⟨_, exec_next hentry s, by simpa using hwhole⟩

/-- ADC and SBC: the sum of `A`, a byte made of the operand, and the carry (R160, R161). -/
theorem exec_addWithCarry {m : Byte} (hwf : i.wellFormed = true)
    (heffect : effect i s = (s.operand o).2.addWithCarry m) :
    ∃ t, exec i s = .next t ∧ t.a = addResult s.a m (s.flag .c) ∧
      t.flag .c = addCarry s.a m (s.flag .c) ∧ t.flag .v = addOverflow s.a m (s.flag .c) ∧ t.znOf t.a ∧
      s.keepsBut [.a] [.c, .v, .z, .n] [] t ∧ t.pc = s.pc ∧ (s.operand o).2.busAs t := by
  obtain ⟨n, hexec, hframe⟩ := exec_read hwf (heffect ▸ State.keepsBut_addWithCarry _ m)
  rw [heffect] at hexec hframe
  have ha := s.a_operand o
  have hc := s.flag_operand o .c
  refine ⟨_, hexec, ?result, ?carry, ?overflow, State.znOf_setZN _ _, hframe, ?pc,
    (State.busAs_addWithCarry _ m).setCyclesPending n⟩
  case result => rw [← ha, ← hc]; rfl
  case carry => rw [← ha, ← hc]; exact State.flag_c_addWithCarry _ m
  case overflow => rw [← ha, ← hc]; exact State.flag_v_addWithCarry _ m
  case pc => rw [State.pc_setCyclesPending, State.pc_addWithCarry, State.pc_operand]

/-- CMP, CPX, CPY: the flags of the register minus the operand (R162 to R164). -/
theorem exec_compare {r : Byte} (hwf : i.wellFormed = true)
    (heffect : effect i s = (s.operand o).2.compare r (s.operand o).1) :
    ∃ t, exec i s = .next t ∧ (t.flag .c = true ↔ (s.operand o).1.toNat ≤ r.toNat) ∧
      t.znOf (BitVec.ofInt 8 ((r.toNat : Int) - (s.operand o).1.toNat)) ∧
      s.keepsBut [] [.c, .z, .n] [] t ∧ t.pc = s.pc ∧ (s.operand o).2.busAs t := by
  obtain ⟨n, hexec, hframe⟩ := exec_read hwf (heffect ▸ State.keepsBut_compare _ r (s.operand o).1)
  rw [heffect] at hexec hframe
  refine ⟨_, hexec, ?carry, ?zn, hframe, ?pc, (State.busAs_compare _ r _).setCyclesPending n⟩
  case carry => rw [State.flag_setCyclesPending, State.flag_c_compare, decide_eq_true_eq]
  case zn => rw [← sub_eq_ofInt]; exact State.znOf_setZN _ _
  case pc => rw [State.pc_setCyclesPending, State.pc_compare, State.pc_operand]

/-! ## A register stepped by a constant -/

/-- INX, INY, DEX, DEY: no operand, the register plus a constant modulo 256 (R167 to R170). -/
theorem exec_stepReg {e : Entry} {r : Reg} {v : Byte} {k : Nat} (hentry : entryOf i = some e)
    (heffect : effect i s = s.loadReg r v) (hv : v.toNat = ((s.reg r).toNat + k) % 256) :
    ∃ t, exec i s = .next t ∧ (t.reg r).toNat = ((s.reg r).toNat + k) % 256 ∧ t.znOf (t.reg r) ∧
      s.keepsBut [r] [.z, .n] [] t ∧ t.pc = s.pc ∧ s.busAs t ∧
      t.cyclesPending = e.cycles + penalty i s e := by
  obtain ⟨t, hexec, hreg, hzn, hrest⟩ := exec_loadReg hentry (.refl s) heffect
  exact ⟨t, hexec, by rw [hreg, hv], by rwa [hreg], hrest⟩

theorem toNat_add_one (b : Byte) : (b + 1#8).toNat = (b.toNat + 1) % 256 := BitVec.toNat_add b 1#8

theorem toNat_sub_one (b : Byte) : (b - 1#8).toNat = (b.toNat + 255) % 256 := by
  rw [BitVec.toNat_sub, Nat.add_comm]
  rfl

/-! ## Read-modify-write -/

theorem State.placeCells_of_mem {ea : Addr} {cross : Bool} (h : (s.place o).1 = .mem ea cross) :
    s.placeCells o = (s.storeIndex ea).toList := by
  rw [State.placeCells, h]

/-- A write-back changes `A` in Accumulator mode, else the cell at `ea`; no row has an Immediate
write-back (R131). -/
theorem State.keepsBut_writeBack {u : State} (hreads : s.readsTo u) (himm : o.form ≠ .imm) (v : Byte) :
    u.keepsBut (if o = .acc then [.a] else []) [] (s.placeCells o) (u.writeBack (s.place o).1 v) := by
  by_cases hacc : o = .acc
  · subst hacc
    exact u.keepsBut_setReg .a v
  · have hform : o.form ∉ [Form.acc, .imm] := by cases o <;> simp_all [Operand.form]
    obtain ⟨ea, cross, hplace⟩ := State.place_eq_mem hform s
    rw [if_neg hacc, hplace, State.writeBack_mem, State.placeCells_of_mem hplace, ← hreads.storeIndex_eq ea]
    exact u.keepsBut_busWrite ea v

/-- The cell written back reads as the byte. -/
theorem State.get_writeBack {u : State} (hreads : s.readsTo u) (v : Byte) {k : Nat}
    (hk : k ∈ s.placeCells o) : Memory.get (u.writeBack (s.place o).1 v).ram k = v := by
  unfold State.placeCells at hk
  split at hk
  case h_1 ea cross hplace =>
    rw [hplace]
    exact u.get_busWrite_same v ((hreads.storeIndex_eq ea).trans (Option.mem_toList.mp hk))
  case h_2 | h_3 => exact absurd hk List.not_mem_nil

/-- What every read-modify-write leaves, the carry of the shifts apart (R115, R131). -/
theorem State.wroteBack_modify {f : Byte → Bool → Byte} {v : Byte} (himm : o.form ≠ .imm)
    (hv : f (s.operand o).1 (s.flag .c) = v) : s.wroteBack o v [.z, .n] (s.modify o f) := by
  have hreads := s.operand_readsTo o
  have hmodify : s.modify o f = ((s.operand o).2.writeBack (s.place o).1 v).setZN v := by rw [← hv]; rfl
  have hframe := (hreads.keepsBut.trans (State.keepsBut_writeBack hreads himm v)).trans (State.keepsBut_setZN _ v)
  rw [hmodify]
  refine ⟨by simpa using hframe, ?pc, State.znOf_setZN _ _, ?acc, fun k hk => ?cell, rfl, rfl, rfl⟩
  case pc => exact (State.pc_writeBack _ _ _).trans (s.pc_operand o)
  case acc => rintro rfl; rfl
  case cell => exact State.get_writeBack hreads v hk

/-- The cycle count is outside what a write-back is said to leave. -/
theorem exec_wroteBack {v : Byte} {flags : List Flag} (hwf : i.wellFormed = true)
    (h : s.wroteBack o v flags (effect i s)) : ∃ t, exec i s = .next t ∧ s.wroteBack o v flags t := by
  obtain ⟨e, hentry⟩ := entryOf_of_wellFormed hwf
  obtain ⟨hframe, hrest⟩ := h
  have hframe' := hframe.trans (State.keepsBut_setCyclesPending _ (e.cycles + penalty i s e))
  exact ⟨_, exec_next hentry s, by simpa using hframe', hrest⟩

end

end Sys2Proof.Machine
end

section
/-! The obligations on addition, subtraction, comparison, increment and decrement. -/

namespace Sys2Proof.Machine

/-- Settles O22: ADC's effect is `addWithCarry` of the operand on the state after its read; its sum is the
rule's, term by term. -/
theorem adcAddsWithCarry : Obligations.AdcAddsWithCarry := by
  unfold Obligations.AdcAddsWithCarry
  refine ⟨encodedAs_of_opcodeOf (fun o => ?opcode) fun _ => rfl, fun o s hwf => ?meaning⟩
  case opcode => cases o <;> rfl
  case meaning =>
    obtain ⟨t, hexec, ha, hc, hv, hrest⟩ := exec_addWithCarry (o := o) (s := s) hwf rfl
    refine ⟨t, hexec, ha, ?carry, ?overflow, hrest⟩
    case carry => rw [hc, addCarry, decide_eq_true_eq]; rfl
    case overflow => rw [hv, ha, addOverflow, bne_iff_ne]

/-- Settles O23: SBC adds the operand's complement, which is the difference plus 256. -/
theorem sbcSubtractsWithBorrow : Obligations.SbcSubtractsWithBorrow := by
  unfold Obligations.SbcSubtractsWithBorrow
  refine ⟨encodedAs_of_opcodeOf (fun o => ?opcode) fun _ => rfl, fun o s hwf => ?meaning⟩
  case opcode => cases o <;> rfl
  case meaning =>
    obtain ⟨t, hexec, ha, hc, hv, hrest⟩ := exec_addWithCarry (o := o) (s := s) hwf rfl
    refine ⟨t, hexec, ha.trans (addResult_complement ..), ?carry, ?overflow, hrest⟩
    case carry => rw [hc]; exact addCarry_complement ..
    case overflow => rw [hv, ha, addOverflow, bne_iff_ne]

/-- Settles O26: each compare's effect is `compare` of its register on the state after the operand's read,
which leaves the register. -/
theorem comparesSetFlagsOnly : Obligations.ComparesSetFlagsOnly := by
  unfold Obligations.ComparesSetFlagsOnly
  refine ⟨encodedAs_of_opcodeOf (fun o => ?cmp) fun _ => rfl, encodedAs_of_opcodeOf (fun o => ?cpx) fun _ => rfl,
    encodedAs_of_opcodeOf (fun o => ?cpy) fun _ => rfl, fun o s => ⟨fun h => ?_, fun h => ?_, fun h => ?_⟩⟩
  case cmp | cpx | cpy => cases o <;> rfl
  · exact exec_compare h (by rw [effect, State.a_operand])
  · exact exec_compare h (by rw [effect, State.x_operand])
  · exact exec_compare h (by rw [effect, State.y_operand])

/-- Settles O27: INC and DEC are read-modify-writes, and no form of theirs is Immediate. -/
theorem incDecModifyMemory : Obligations.IncDecModifyMemory := by
  unfold Obligations.IncDecModifyMemory
  refine ⟨encodedAs_of_opcodeOf (fun o => ?inc) fun _ => rfl, encodedAs_of_opcodeOf (fun o => ?dec) fun _ => rfl,
    fun o s => ?meaning⟩
  case inc | dec => cases o <;> rfl
  case meaning =>
    have notImm (h : rmwForms.contains o.form = true) : o.form ≠ .imm := fun e => by simp [e, rmwForms] at h
    have hinc : (s.operand o).1 + 1#8 = BitVec.ofNat 8 ((s.operand o).1.toNat + 1) :=
      BitVec.eq_of_toNat_eq (toNat_add_one _)
    have hdec : (s.operand o).1 - 1#8 = BitVec.ofNat 8 ((s.operand o).1.toNat + 255) :=
      BitVec.eq_of_toNat_eq (toNat_sub_one _)
    exact ⟨fun h => exec_wroteBack h (State.wroteBack_modify (f := fun m _ => m + 1#8) (notImm h) hinc),
      fun h => exec_wroteBack h (State.wroteBack_modify (f := fun m _ => m - 1#8) (notImm h) hdec)⟩

/-- Settles O28: each is `loadReg` of its register plus 1 or plus 255, with no bus access. -/
theorem incDecRegistersWrap : Obligations.IncDecRegistersWrap := by
  unfold Obligations.IncDecRegistersWrap
  refine ⟨rfl, rfl, rfl, rfl, fun s => ⟨?inx, ?iny, ?dex, ?dey⟩⟩
  case inx => exact exec_stepReg (r := .x) (e := entryAt 0xE8) rfl rfl (toNat_add_one s.x)
  case iny => exact exec_stepReg (r := .y) (e := entryAt 0xC8) rfl rfl (toNat_add_one s.y)
  case dex => exact exec_stepReg (r := .x) (e := entryAt 0xCA) rfl rfl (toNat_sub_one s.x)
  case dey => exact exec_stepReg (r := .y) (e := entryAt 0x88) rfl rfl (toNat_sub_one s.y)

end Sys2Proof.Machine
end

section
/-! What logic, bit test, shifts and rotates leave behind: the shifts as arithmetic on numbers, and the shapes the
families share. -/

namespace Sys2Proof.Machine

/-! ## The shifts as arithmetic (R184 to R187) -/

theorem carryNat_le_one (c : Bool) : carryNat c ≤ 1 := by cases c <;> decide

/-- The bit a left rotate brings in stands below twice the operand, so it adds to it. -/
theorem rolByte_eq_ofNat (m : Byte) (c : Bool) : rolByte m c = BitVec.ofNat 8 (2 * m.toNat + carryNat c) := by
  have hlow : (if c then 0x01#8 else 0#8).toNat = carryNat c := by cases c <;> rfl
  have hlt : carryNat c < 2 ^ 1 := Nat.lt_succ_of_le (carryNat_le_one c)
  have hhigh : (m <<< 1).toNat = 2 ^ 1 * (m.toNat % 128) := by
    rw [BitVec.toNat_shiftLeft, Nat.shiftLeft_eq]
    omega
  apply BitVec.eq_of_toNat_eq
  rw [rolByte, BitVec.toNat_or, hlow, hhigh, ← Nat.two_pow_add_eq_or_of_lt hlt, BitVec.toNat_ofNat]
  omega

/-- The bit a right rotate brings in stands above half the operand, so it adds to it. -/
theorem rorByte_eq_ofNat (m : Byte) (c : Bool) :
    rorByte m c = BitVec.ofNat 8 (m.toNat / 2 + 128 * carryNat c) := by
  have hhigh : (if c then 0x80#8 else 0#8).toNat = 2 ^ 7 * carryNat c := by cases c <;> rfl
  have hlow : (m >>> 1).toNat = m.toNat / 2 := by
    rw [BitVec.toNat_ushiftRight, Nat.shiftRight_eq_div_pow, pow_one]
  have hlt : m.toNat / 2 < 2 ^ 7 := by have := m.isLt; omega
  have hcarry := carryNat_le_one c
  apply BitVec.eq_of_toNat_eq
  rw [rorByte, BitVec.toNat_or, hlow, hhigh, Nat.lor_comm, ← Nat.two_pow_add_eq_or_of_lt hlt, BitVec.toNat_ofNat]
  omega

/-- ASL is ROL with no carry before. -/
theorem aslByte_eq_ofNat (m : Byte) : aslByte m = BitVec.ofNat 8 (2 * m.toNat) :=
  BitVec.or_zero.symm.trans (rolByte_eq_ofNat m false)

/-- LSR is ROR with no carry before. -/
theorem lsrByte_eq_ofNat (m : Byte) : lsrByte m = BitVec.ofNat 8 (m.toNat / 2) :=
  BitVec.or_zero.symm.trans (rorByte_eq_ofNat m false)

theorem getLsbD_seven_iff (m : Byte) : m.getLsbD 7 = true ↔ 128 ≤ m.toNat := by
  rw [← BitVec.msb_eq_getLsbD_last (x := m), BitVec.msb_eq_decide, decide_eq_true_eq]

theorem getLsbD_zero_iff (m : Byte) : m.getLsbD 0 = true ↔ m.toNat % 2 = 1 := by
  rw [BitVec.getLsbD, Nat.testBit_zero, decide_eq_true_eq]

/-! ## Frames -/

section
variable {s t : State}

/-- A frame says less when it lists more flags. -/
theorem State.keepsBut.of_flags_subset {rs : List Reg} {fs fs' : List Flag} {cs : List Nat}
    (h : s.keepsBut rs fs cs t) (hsub : fs ⊆ fs') : s.keepsBut rs fs' cs t := by
  obtain ⟨hregs, hflags, hrest⟩ := h
  exact ⟨hregs, fun f hf => hflags f (mt (@hsub f) hf), hrest⟩

/-- BIT writes `Z`, `V` and `N` (R183). -/
theorem State.keepsBut_bitTest (m : Byte) (s : State) : s.keepsBut [] [.z, .v, .n] [] (s.bitTest m) :=
  ((s.keepsBut_setFlag .z _).trans (State.keepsBut_setFlag _ .v _)).trans (State.keepsBut_setFlag _ .n _)

@[simp] theorem State.flag_z_bitTest (m : Byte) (s : State) : (s.bitTest m).flag .z = (s.a &&& m == 0#8) := by
  simp [State.bitTest, State.flag_setFlag]

@[simp] theorem State.flag_v_bitTest (m : Byte) (s : State) : (s.bitTest m).flag .v = m.getLsbD 6 := by
  simp [State.bitTest, State.flag_setFlag]

@[simp] theorem State.flag_n_bitTest (m : Byte) (s : State) : (s.bitTest m).flag .n = m.getLsbD 7 :=
  State.flag_setFlag_same _ .n _

/-- The flag a shift writes last is the carry, and that is all it adds to a write-back (R188). -/
theorem State.wroteBack.setFlag_c {o : Operand} {v : Byte} (h : s.wroteBack o v [.z, .n] t) (b : Bool) :
    s.wroteBack o v [.c, .z, .n] (t.setFlag .c b) := by
  obtain ⟨hframe, hpc, ⟨hz, hn⟩, hrest⟩ := h
  have hframe' := hframe.trans (t.keepsBut_setFlag .c b)
  rw [List.append_nil, List.append_nil] at hframe'
  refine ⟨hframe'.of_flags_subset (by decide), hpc, ⟨?z, ?n⟩, hrest⟩
  case z | n => rwa [State.flag_setFlag_ne _ b (by decide)]

end

/-! ## The shapes of instruction -/

section
variable {s : State} {i : Instr} {o : Operand}

/-- AND, ORA, EOR: a byte that is bit by bit a function of `A` and the operand goes to `A` (R180 to R182). -/
theorem exec_logic {v : Byte} {f : Bool → Bool → Bool} (hwf : i.wellFormed = true)
    (heffect : effect i s = (s.operand o).2.loadReg .a v)
    (hbits : ∀ k, k < 8 → v.getLsbD k = f (s.a.getLsbD k) ((s.operand o).1.getLsbD k)) :
    ∃ t, exec i s = .next t ∧
      (∀ k, k < 8 → t.a.getLsbD k = f (s.a.getLsbD k) ((s.operand o).1.getLsbD k)) ∧
      t.znOf t.a ∧ s.keepsBut [.a] [.z, .n] [] t ∧ t.pc = s.pc ∧ (s.operand o).2.busAs t := by
  obtain ⟨e, hentry⟩ := entryOf_of_wellFormed hwf
  obtain ⟨t, hexec, rfl, hzn, hframe, hpc, hbus, -⟩ := exec_loadReg hentry (s.operand_readsTo o) heffect
  exact ⟨t, hexec, hbits, hzn, hframe, hpc, hbus⟩

/-- ASL, LSR, ROL, ROR: a write-back, and `C` from the operand's outgoing bit (R184 to R188). -/
theorem exec_shift {f : Byte → Bool → Byte} {out : Byte → Bool} {v : Byte} {carry : Prop}
    (hwf : i.wellFormed = true) (hform : (Form.acc :: rmwForms).contains o.form = true)
    (heffect : effect i s = s.shift o f out) (hv : f (s.operand o).1 (s.flag .c) = v)
    (hout : out (s.operand o).1 = true ↔ carry) :
    ∃ t, exec i s = .next t ∧ s.wroteBack o v [.c, .z, .n] t ∧ (t.flag .c = true ↔ carry) := by
  have himm : o.form ≠ .imm := fun e => by simp [e, rmwForms] at hform
  have hwrote := (State.wroteBack_modify himm hv).setFlag_c (out (s.operand o).1)
  rw [← State.shift, ← heffect] at hwrote
  obtain ⟨t, hexec, hwrote'⟩ := exec_wroteBack hwf hwrote
  obtain ⟨e, -, rfl⟩ := exec_eq_next hexec
  refine ⟨_, hexec, hwrote', ?_⟩
  rw [State.flag_setCyclesPending, heffect, State.shift, State.flag_setFlag_same, hout]

end

end Sys2Proof.Machine
end

section
/-! The obligations on logic, bit test, shifts and rotates. -/

namespace Sys2Proof.Machine

/-- Settles O29: each is `loadReg` of `A` with the byte combined bit by bit, on the state after the operand's
read, which leaves `A`. -/
theorem logicWorksBitByBit : Obligations.LogicWorksBitByBit := by
  unfold Obligations.LogicWorksBitByBit
  refine ⟨encodedAs_of_opcodeOf (fun o => ?and) fun _ => rfl, encodedAs_of_opcodeOf (fun o => ?ora) fun _ => rfl,
    encodedAs_of_opcodeOf (fun o => ?eor) fun _ => rfl, fun o s => ⟨fun h => ?_, fun h => ?_, fun h => ?_⟩⟩
  case and | ora | eor => cases o <;> rfl
  · exact exec_logic h rfl fun k _ => by rw [State.a_operand, BitVec.getLsbD_and]
  · exact exec_logic h rfl fun k _ => by rw [State.a_operand, BitVec.getLsbD_or]
  · exact exec_logic h rfl fun k _ => by rw [State.a_operand, BitVec.getLsbD_xor]

/-- Settles O30: BIT's effect is `bitTest` of the operand on the state after its read, which leaves `A`. -/
theorem bitTestsTheOperand : Obligations.BitTestsTheOperand := by
  unfold Obligations.BitTestsTheOperand
  refine ⟨encodedAs_of_opcodeOf (fun o => ?opcode) fun _ => rfl, fun o s hwf => ?meaning⟩
  case opcode => cases o <;> rfl
  case meaning =>
    obtain ⟨n, hexec, hframe⟩ := exec_read (i := .bit o) (s := s) (o := o) hwf (State.keepsBut_bitTest _ _)
    refine ⟨_, hexec, ?zero, ?overflow, ?negative, hframe, s.pc_operand o, rfl, rfl, rfl⟩
    all_goals rw [State.flag_setCyclesPending, effect]
    case zero => rw [State.flag_z_bitTest, State.a_operand, beq_iff_eq]
    case overflow => exact State.flag_v_bitTest _ _
    case negative => exact State.flag_n_bitTest _ _

/-- Settles O31: the bit shifted out is the operand's bit 7, and doubling drops it. -/
theorem leftShiftsDouble : Obligations.LeftShiftsDouble := by
  unfold Obligations.LeftShiftsDouble
  refine ⟨encodedAs_of_opcodeOf (fun o => ?asl) fun _ => rfl, encodedAs_of_opcodeOf (fun o => ?rol) fun _ => rfl,
    fun o s => ?meaning⟩
  case asl | rol => cases o <;> rfl
  case meaning =>
    exact ⟨fun h => exec_shift (out := (·.getLsbD 7)) h h rfl (aslByte_eq_ofNat _) (getLsbD_seven_iff _),
      fun h => exec_shift (out := (·.getLsbD 7)) h h rfl (rolByte_eq_ofNat _ _) (getLsbD_seven_iff _)⟩

/-- Settles O32: the bit shifted out is the operand's bit 0, and halving drops it. -/
theorem rightShiftsHalve : Obligations.RightShiftsHalve := by
  unfold Obligations.RightShiftsHalve
  refine ⟨encodedAs_of_opcodeOf (fun o => ?lsr) fun _ => rfl, encodedAs_of_opcodeOf (fun o => ?ror) fun _ => rfl,
    fun o s => ?meaning⟩
  case lsr | ror => cases o <;> rfl
  case meaning =>
    exact ⟨fun h => exec_shift (out := (·.getLsbD 0)) h h rfl (lsrByte_eq_ofNat _) (getLsbD_zero_iff _),
      fun h => exec_shift (out := (·.getLsbD 0)) h h rfl (rorByte_eq_ofNat _ _) (getLsbD_zero_iff _)⟩

end Sys2Proof.Machine
end

section
/-! What branches, jumps and subroutines leave behind: targets and pages as arithmetic, and the frames, cells and
latches of the stack's word operations. -/

namespace Sys2Proof.Machine

/-! ## Targets and pages as numbers (R124, R127, R200) -/

theorem join_eq_ofNat (h l : Byte) : join h l = BitVec.ofNat 16 (256 * h.toNat + l.toNat) := by
  rw [← toNat_join, BitVec.ofNat_toNat, BitVec.setWidth_eq]

/-- Sign extension keeps the signed value, so the target is the exact sum modulo 65536 (R127). -/
theorem branchTarget_eq_ofInt (off : Byte) (s : State) :
    branchTarget off s = BitVec.ofInt 16 ((s.pc.toNat : Int) + off.toInt) := by
  rw [BitVec.ofInt_add, BitVec.ofInt_natCast, BitVec.ofNat_toNat, BitVec.setWidth_eq]
  rfl

theorem page_eq_iff (a b : Addr) : page a = page b ↔ a.toNat / 256 = b.toNat / 256 := by
  rw [page, page, ← BitVec.toNat_inj, toNat_hiByte, toNat_hiByte]

/-- The low byte steps and the high byte stays (R124). -/
theorem samePageNext_eq_ofNat (w : Addr) :
    samePageNext w = BitVec.ofNat 16 (w.toNat / 256 * 256 + (w.toNat + 1) % 256) := by
  rw [samePageNext, join_eq_ofNat, toNat_hiByte, toNat_add_one, toNat_loByte, Nat.mod_add_mod, Nat.mul_comm]

theorem toNat_addr_sub_one (w : Addr) : (w - 1#16).toNat = (w.toNat + 65535) % 65536 := by
  rw [BitVec.toNat_sub, Nat.add_comm]
  rfl

theorem add_one_add_one (b : Byte) : b + 1#8 + 1#8 = b + 2#8 := BitVec.add_assoc b 1#8 1#8

/-! ## Branches (R200) -/

/-- A branch of base cost 2: `PC` and the penalty follow the condition. -/
theorem exec_branch {i : Instr} {e : Entry} {off : Byte} {taken : Bool} {s : State}
    (hentry : entryOf i = some e) (hcycles : e.cycles = 2) (hexec : exec i s = runBranch i off taken s) :
    let target := BitVec.ofInt 16 ((s.pc.toNat : Int) + off.toInt)
    exec i s = .next (if taken = true then
      (s.setPc target).setCyclesPending (if target.toNat / 256 = s.pc.toNat / 256 then 3 else 4)
      else s.setCyclesPending 2) := by
  intro target
  have htarget : branchTarget off s = target := branchTarget_eq_ofInt off s
  rw [hexec, runBranch, run, hentry]
  cases taken with
  | false => simp [State.branchPenalty, hcycles]
  | true =>
    by_cases hpage : target.toNat / 256 = s.pc.toNat / 256
    · simp [State.branchPenalty, hcycles, htarget, hpage, (page_eq_iff _ _).mpr hpage]
    · simp [State.branchPenalty, hcycles, htarget, hpage, mt (page_eq_iff _ _).mp hpage]

/-! ## Frames, cells and latches of the stack operations (R24, R72) -/

section
variable {s t : State}

/-- A frame says less when it lists more registers. -/
theorem State.keepsBut.of_regs_subset {rs rs' : List Reg} {fs : List Flag} {cs : List Nat}
    (h : s.keepsBut rs fs cs t) (hsub : rs ⊆ rs') : s.keepsBut rs' fs cs t := by
  obtain ⟨hregs, hrest⟩ := h
  exact ⟨fun r hr => hregs r (mt (@hsub r) hr), hrest⟩

end

section
variable (s : State)

/-- `PC` is outside every frame. -/
theorem State.keepsBut_setPc (w : Addr) : s.keepsBut [] [] [] (s.setPc w) :=
  ⟨fun r _ => by cases r <;> rfl, fun _ _ => rfl, fun _ _ => rfl, rfl, rfl, rfl, rfl, rfl, rfl⟩

/-- A push changes `S` and the cell it was at. -/
theorem State.keepsBut_push (v : Byte) : s.keepsBut [.sp] [] [0x100 + s.sp.toNat] (s.push v) := by
  have hwrite := s.keepsBut_busWrite (stackAddr s.sp) v
  rw [State.storeIndex_stackAddr] at hwrite
  exact hwrite.trans (State.keepsBut_setReg _ .sp (s.sp - 1#8))

/-- A pull changes `S`. -/
theorem State.keepsBut_pull : s.keepsBut [.sp] [] [] s.pull.2 :=
  (s.keepsBut_setReg .sp (s.sp + 1#8)).trans (State.busRead_readsTo _ _).keepsBut

theorem State.keepsBut_pushWord (w : Addr) :
    s.keepsBut [.sp] [] [0x100 + s.sp.toNat, 0x100 + (s.sp - 1#8).toNat] (s.pushWord w) :=
  ((s.keepsBut_push _).trans (State.keepsBut_push _ _)).of_regs_subset (by decide)

theorem State.keepsBut_pullWord : s.keepsBut [.sp] [] [] s.pullWord.2 :=
  (s.keepsBut_pull.trans (State.keepsBut_pull _)).of_regs_subset (by decide)

@[simp] theorem State.addrLatch_push (v : Byte) : (s.push v).addrLatch = stackAddr s.sp := rfl
@[simp] theorem State.dataLatch_push (v : Byte) : (s.push v).dataLatch = v := rfl
@[simp] theorem State.addrLatch_pull : s.pull.2.addrLatch = stackAddr (s.sp + 1#8) := rfl
@[simp] theorem State.dataLatch_pull : s.pull.2.dataLatch = s.pull.1 := rfl

@[simp] theorem State.addrLatch_pushWord (w : Addr) :
    (s.pushWord w).addrLatch = stackAddr (s.sp - 1#8) := rfl
@[simp] theorem State.dataLatch_pushWord (w : Addr) : (s.pushWord w).dataLatch = loByte w := rfl

@[simp] theorem State.addrLatch_pullWord : s.pullWord.2.addrLatch = stackAddr (s.sp + 2#8) := by
  rw [← add_one_add_one]
  rfl

@[simp] theorem State.dataLatch_pullWord : s.pullWord.2.dataLatch = s.pull.2.pull.1 := rfl

/-- The second byte pulled is from two cells above `S`. -/
theorem State.pull_pull_value : s.pull.2.pull.1 = Memory.get s.ram (0x100 + (s.sp + 2#8).toNat) := by
  rw [State.pull_value, State.ram_pull, State.sp_pull, add_one_add_one]

theorem State.pullWord_value :
    s.pullWord.1 = join (Memory.get s.ram (0x100 + (s.sp + 2#8).toNat))
      (Memory.get s.ram (0x100 + (s.sp + 1#8).toNat)) := by
  rw [← State.pull_pull_value, ← State.pull_value]
  rfl

/-- The low byte is pushed last. -/
theorem State.get_pushWord_low (w : Addr) :
    Memory.get (s.pushWord w).ram (0x100 + (s.sp - 1#8).toNat) = loByte w := by
  rw [State.pushWord, State.get_push, State.sp_push, if_pos rfl]

/-- The low byte goes to another cell than the high byte, wherever `S` stands. -/
theorem State.get_pushWord_high (w : Addr) :
    Memory.get (s.pushWord w).ram (0x100 + s.sp.toNat) = hiByte w := by
  have hne : 0x100 + (s.sp - 1#8).toNat ≠ 0x100 + s.sp.toNat := by
    rw [toNat_sub_one]
    have := s.sp.isLt
    omega
  rw [State.pushWord, State.get_push_ne _ _ hne, State.get_push, if_pos rfl]

end

end Sys2Proof.Machine
end

section
/-! The obligations on branches, jumps, subroutine call and return. -/

namespace Sys2Proof.Machine

/-- Settles O33: every branch is `runBranch` on its flag, two cycles by its table entry. -/
theorem branchesMovePcOnTheirCondition : Obligations.BranchesMovePcOnTheirCondition := by
  unfold Obligations.BranchesMovePcOnTheirCondition
  intro off s
  simp only [beq_false, beq_true]
  refine ⟨⟨rfl, ?bcc⟩, ⟨rfl, ?bcs⟩, ⟨rfl, ?beq⟩, ⟨rfl, ?bmi⟩, ⟨rfl, ?bne⟩, ⟨rfl, ?bpl⟩, ⟨rfl, ?bvc⟩, rfl, ?bvs⟩
  case bcc => exact exec_branch (e := entryAt 0x90) rfl rfl rfl
  case bcs => exact exec_branch (e := entryAt 0xB0) rfl rfl rfl
  case beq => exact exec_branch (e := entryAt 0xF0) rfl rfl rfl
  case bmi => exact exec_branch (e := entryAt 0x30) rfl rfl rfl
  case bne => exact exec_branch (e := entryAt 0xD0) rfl rfl rfl
  case bpl => exact exec_branch (e := entryAt 0x10) rfl rfl rfl
  case bvc => exact exec_branch (e := entryAt 0x50) rfl rfl rfl
  case bvs => exact exec_branch (e := entryAt 0x70) rfl rfl rfl

/-- Settles O34: the effect is `PC` to the resolver's `ea`, and only the Indirect resolver reads, its second byte
at `samePageNext`. -/
theorem jmpSetsPc : Obligations.JmpSetsPc := by
  unfold Obligations.JmpSetsPc
  refine ⟨encodedAs_of_opcodeOf (fun o => ?opcode) fun _ => rfl, fun w s => ⟨?absolute, ?indirect⟩⟩
  case opcode => cases o <;> rfl
  case absolute => exact exec_next (e := entryAt 0x4C) rfl s
  case indirect =>
    rw [← samePageNext_eq_ofNat]
    exact exec_next (e := entryAt 0x6C) rfl s

/-- Settles O35: the effect is `pushWord` of `PC - 1`, then `PC` to the operand. -/
theorem jsrPushesTheReturnAddress : Obligations.JsrPushesTheReturnAddress := by
  unfold Obligations.JsrPushesTheReturnAddress
  refine ⟨encodedAs_of_opcodeOf (fun o => ?opcode) fun _ => rfl, fun w s => ?meaning⟩
  case opcode => cases o <;> rfl
  case meaning =>
    have hexec : exec (.jsr (.abs w)) s =
        .next (((s.pushWord (s.pc - 1#16)).setPc w).setCyclesPending 6) := exec_next (e := entryAt 0x20) rfl s
    have hframe := ((s.keepsBut_pushWord (s.pc - 1#16)).trans (State.keepsBut_setPc _ w)).trans
      (State.keepsBut_setCyclesPending _ 6)
    refine ⟨_, hexec, rfl, ?sp, hframe, ?high, ?low, ?transcript, ?address, ?data, rfl⟩
    case sp | transcript => simp
    case high =>
      rw [State.ram_setCyclesPending, State.ram_setPc, State.get_pushWord_high, toNat_hiByte, toNat_addr_sub_one]
    case low =>
      rw [State.ram_setCyclesPending, State.ram_setPc, State.get_pushWord_low, toNat_loByte, toNat_addr_sub_one]
    case address =>
      rw [State.addrLatch_setCyclesPending, State.addrLatch_setPc, State.addrLatch_pushWord, toNat_stackAddr]
    case data =>
      rw [State.dataLatch_setCyclesPending, State.dataLatch_setPc, State.dataLatch_pushWord, toNat_loByte,
        toNat_addr_sub_one]

/-- Settles O36: the effect is `pullWord`, then `PC` to the pulled word plus 1. -/
theorem rtsPullsTheReturnAddress : Obligations.RtsPullsTheReturnAddress := by
  unfold Obligations.RtsPullsTheReturnAddress
  refine ⟨rfl, fun s => ?meaning⟩
  have hexec : exec .rts s =
      .next ((s.pullWord.2.setPc (s.pullWord.1 + 1#16)).setCyclesPending 6) := exec_next (e := entryAt 0x60) rfl s
  have hframe := (s.keepsBut_pullWord.trans (State.keepsBut_setPc _ (s.pullWord.1 + 1#16))).trans
    (State.keepsBut_setCyclesPending _ 6)
  refine ⟨_, hexec, ?pc, s.sp_pullWord, hframe, s.transcript_pullWord, ?address, s.pull_pull_value, rfl⟩
  case pc =>
    rw [State.pc_setCyclesPending, State.pc_setPc, State.pullWord_value, join_eq_ofNat]
    exact (BitVec.ofNat_add _ 1).symm
  case address =>
    rw [State.addrLatch_setCyclesPending, State.addrLatch_setPc, State.addrLatch_pullWord, toNat_stackAddr]

end Sys2Proof.Machine
end

section
/-! What stack, flag and system instructions leave behind: the shapes the pushes and the flag instructions share,
and the trap and its return as frames, cells and vector reads. -/

namespace Sys2Proof.Machine

/-! ## Words as bytes, stack cells apart -/

theorem hiByte_eq_ofNat (w : Addr) : hiByte w = BitVec.ofNat 8 (w.toNat / 256) := by
  rw [← toNat_hiByte, BitVec.ofNat_toNat, BitVec.setWidth_eq]

theorem loByte_eq_ofNat (w : Addr) : loByte w = BitVec.ofNat 8 w.toNat := (BitVec.ofNat_toNat 8 w).symm

theorem toNat_addr_add_one (w : Addr) : (w + 1#16).toNat = (w.toNat + 1) % 65536 := BitVec.toNat_add w 1#16

theorem add_one_add_two (b : Byte) : b + 1#8 + 2#8 = b + 3#8 := BitVec.add_assoc b 1#8 2#8

/-- Different stack pointers are at different cells (R24). -/
theorem stackCell_ne {p q : Byte} (h : p ≠ q) : 0x100 + p.toNat ≠ 0x100 + q.toNat :=
  fun e => h (BitVec.eq_of_toNat_eq (Nat.add_left_cancel e))

/-! ## Pushes, pulls and flag writes -/

section
variable (s : State)

/-- Writing `P` whole changes no more than the eight flags. -/
theorem State.keepsBut_setP (v : Byte) : s.keepsBut [] [.c, .z, .i, .d, .b, .u, .v, .n] [] (s.setP v) := by
  have all (f : Flag) : f ∈ [Flag.c, .z, .i, .d, .b, .u, .v, .n] := by cases f <;> decide
  exact ⟨fun r _ => by cases r <;> rfl, fun f hf => absurd (all f) hf, fun _ _ => rfl, rfl, rfl, rfl, rfl, rfl, rfl⟩

/-- What a pull leaves, the cycle count set after it (R24). -/
theorem State.pull_leaves (n : Nat) :
    let t := s.pull.2.setCyclesPending n
    t.sp = s.sp + 1#8 ∧ t.pc = s.pc ∧ t.ram = s.ram ∧ t.transcript = s.transcript ∧
      t.addrLatch.toNat = 0x100 + (s.sp + 1#8).toNat ∧
      t.dataLatch = Memory.get s.ram (0x100 + (s.sp + 1#8).toNat) ∧ t.cyclesPending = n :=
  ⟨s.sp_pull, s.pc_pull, s.ram_pull, s.transcript_pull, toNat_stackAddr _, s.pull_value, rfl⟩

variable {s} {i : Instr} {e : Entry}

/-- PHA, PHP: a byte into the cell at `S` (R220, R221). -/
theorem exec_push {v : Byte} (hentry : entryOf i = some e) (heffect : effect i s = s.push v) :
    ∃ t, exec i s = .next t ∧ t.sp = s.sp - 1#8 ∧ t.p = s.p ∧
      s.keepsBut [.sp] [] [0x100 + s.sp.toNat] t ∧ t.pc = s.pc ∧
      Memory.get t.ram (0x100 + s.sp.toNat) = v ∧ t.transcript = s.transcript ∧
      t.addrLatch.toNat = 0x100 + s.sp.toNat ∧ t.dataLatch = v ∧
      t.cyclesPending = e.cycles + penalty i s e := by
  have hexec := exec_next hentry s
  rw [heffect] at hexec
  have hframe := (s.keepsBut_push v).trans (State.keepsBut_setCyclesPending _ (e.cycles + penalty i s e))
  refine ⟨_, hexec, s.sp_push v, s.p_push v, hframe, s.pc_push v, ?cell, s.transcript_push v, ?address, rfl, rfl⟩
  case cell => rw [State.ram_setCyclesPending, State.get_push, if_pos rfl]
  case address => rw [State.addrLatch_setCyclesPending, State.addrLatch_push, toNat_stackAddr]

/-- CLC to CLV: one flag (R224 to R230). -/
theorem exec_setFlag {f : Flag} {v : Bool} (hentry : entryOf i = some e) (heffect : effect i s = s.setFlag f v) :
    ∃ t, exec i s = .next t ∧ t.flag f = v ∧ s.keepsBut [] [f] [] t ∧ t.pc = s.pc ∧ t.ram = s.ram ∧
      s.busAs t ∧ t.cyclesPending = e.cycles + penalty i s e := by
  have hexec := exec_next hentry s
  rw [heffect] at hexec
  have hframe := (s.keepsBut_setFlag f v).trans (State.keepsBut_setCyclesPending _ (e.cycles + penalty i s e))
  exact ⟨_, hexec, s.flag_setFlag_same f v, hframe, rfl, rfl, ⟨rfl, rfl, rfl⟩, rfl⟩

end

/-! ## A word read outside RAM (R58, R59, R74) -/

section
variable {s : State} {lo hi : Addr}

theorem State.readPair_flat (hlo : isRam lo = false) (hhi : isRam hi = false)
    (hflat : s.platform.readInterceptors.head? = some .flatMem) :
    (s.readPair lo hi).1 = join (Memory.get s.ram hi.toNat) (Memory.get s.ram lo.toNat) := by
  obtain ⟨hlow, -⟩ := s.busRead_flat hlo hflat
  obtain ⟨hhigh, -⟩ := (s.busRead lo).2.busRead_flat hhi (by rwa [State.platform_busRead])
  rw [State.readPair, hlow, hhigh, State.ram_busRead]

/-- With nobody on the list, both bytes are the data latch. -/
theorem State.readPair_open_bus (hlo : isRam lo = false) (hhi : isRam hi = false)
    (hnobody : s.platform.readInterceptors = []) : (s.readPair lo hi).1 = join s.dataLatch s.dataLatch := by
  have read (t : State) (a : Addr) (ha : isRam a = false) (ht : t.platform.readInterceptors = []) :
      (t.busRead a).1 = t.dataLatch := by
    apply State.busRead_open_bus
    rw [State.answer, ha, ht]
    rfl
  rw [State.readPair, read _ hi hhi (by rwa [State.platform_busRead]), State.dataLatch_busRead,
    read s lo hlo hnobody]

end

/-! ## The trap (R236, R253) -/

section
variable (s : State)

/-- The state after BRK's three pushes, before the vector is read. -/
def State.breakPushes : State := (s.pushWord (s.pc + 1#16)).push (pushedStatus s.p)

/-- The vector is read from the state after the pushes: the bus does not look at `I`. -/
theorem State.takeBreak_eq :
    s.takeBreak = ((s.breakPushes.readPair breakVector (breakVector + 1#16)).2.setFlag .i true).setPc
      (s.breakPushes.readPair breakVector (breakVector + 1#16)).1 := by
  simp only [State.takeBreak, State.breakPushes, State.setFlag_eq_setP, State.readPair_setP, State.p_readPair]

theorem State.pc_takeBreak : s.takeBreak.pc = (s.breakPushes.readPair breakVector (breakVector + 1#16)).1 := by
  rw [State.takeBreak_eq, State.pc_setPc]

theorem State.flag_i_takeBreak : s.takeBreak.flag .i = true := by
  rw [State.takeBreak_eq, State.flag_setPc, State.flag_setFlag_same]

theorem State.busAs_takeBreak : (s.breakPushes.readPair breakVector (breakVector + 1#16)).2.busAs s.takeBreak := by
  rw [State.takeBreak_eq]
  exact ⟨rfl, rfl, rfl⟩

theorem State.keepsBut_breakPushes :
    s.keepsBut [.sp] []
      [0x100 + s.sp.toNat, 0x100 + (s.sp - 1#8).toNat, 0x100 + (s.sp - 2#8).toNat] s.breakPushes := by
  have hstatus := (s.pushWord (s.pc + 1#16)).keepsBut_push (pushedStatus s.p)
  rw [State.sp_pushWord] at hstatus
  exact ((s.keepsBut_pushWord _).trans hstatus).of_regs_subset (by decide)

theorem State.keepsBut_takeBreak :
    s.keepsBut [.sp] [.i]
      [0x100 + s.sp.toNat, 0x100 + (s.sp - 1#8).toNat, 0x100 + (s.sp - 2#8).toNat] s.takeBreak := by
  rw [State.takeBreak_eq]
  exact ((s.keepsBut_breakPushes.trans (State.readPair_readsTo _ _ _).keepsBut).trans
    (State.keepsBut_setFlag _ .i true)).trans (State.keepsBut_setPc _ _)

theorem State.get_takeBreak_status :
    Memory.get s.takeBreak.ram (0x100 + (s.sp - 2#8).toNat) = pushedStatus s.p := by
  rw [State.ram_takeBreak, State.get_push, State.sp_pushWord, if_pos rfl]

theorem State.get_takeBreak_low :
    Memory.get s.takeBreak.ram (0x100 + (s.sp - 1#8).toNat) = loByte (s.pc + 1#16) := by
  have hne : s.sp - 2#8 ≠ s.sp - 1#8 := by bv_omega
  rw [State.ram_takeBreak, State.get_push_ne _ _ (by rw [State.sp_pushWord]; exact stackCell_ne hne),
    State.get_pushWord_low]

theorem State.get_takeBreak_high :
    Memory.get s.takeBreak.ram (0x100 + s.sp.toNat) = hiByte (s.pc + 1#16) := by
  have hne : s.sp - 2#8 ≠ s.sp := by bv_omega
  rw [State.ram_takeBreak, State.get_push_ne _ _ (by rw [State.sp_pushWord]; exact stackCell_ne hne),
    State.get_pushWord_high]

variable {s}

/-- The vector is outside page 0x01, so the pushes leave it. -/
theorem State.pc_takeBreak_of_flat (hflat : s.platform.readInterceptors.head? = some .flatMem) :
    s.takeBreak.pc = join (Memory.get s.ram 0xFFFF) (Memory.get s.ram 0xFFFE) := by
  obtain ⟨-, -, hcells, -⟩ := s.keepsBut_breakPushes
  have vectorKept (k : Nat) (hk : 0x200 ≤ k) : Memory.get s.breakPushes.ram k = Memory.get s.ram k := by
    have below (b : Byte) : k ≠ 0x100 + b.toNat := by have := b.isLt; omega
    exact hcells k (by simp only [List.mem_cons, List.not_mem_nil, below, or_self, not_false_eq_true])
  rw [State.pc_takeBreak, State.readPair_flat (s := s.breakPushes) rfl rfl hflat]
  exact congrArg₂ join (vectorKept 0xFFFF (by decide)) (vectorKept 0xFFFE (by decide))

/-- The status is pushed last, so an open bus answers it twice (R59). -/
theorem State.pc_takeBreak_of_open_bus (hnobody : s.platform.readInterceptors = []) :
    s.takeBreak.pc = join (pushedStatus s.p) (pushedStatus s.p) := by
  rw [State.pc_takeBreak, State.readPair_open_bus (s := s.breakPushes) rfl rfl hnobody, State.breakPushes,
    State.dataLatch_push]

end

/-! ## The return (R237, R256) -/

section
variable (s : State)

/-- The pulls do not look at the status between them. -/
theorem State.returnFromBreak_eq :
    s.returnFromBreak = (s.pull.2.pullWord.2.setP s.pull.1).setPc s.pull.2.pullWord.1 := by
  simp only [State.returnFromBreak, State.pullWord_setP]

theorem State.keepsBut_returnFromBreak :
    s.keepsBut [.sp] [.c, .z, .i, .d, .b, .u, .v, .n] [] s.returnFromBreak := by
  rw [State.returnFromBreak_eq]
  exact (((s.keepsBut_pull.trans (State.keepsBut_pullWord _)).trans (State.keepsBut_setP _ _)).trans
    (State.keepsBut_setPc _ _)).of_regs_subset (by decide)

theorem State.pc_returnFromBreak :
    s.returnFromBreak.pc = join (Memory.get s.ram (0x100 + (s.sp + 3#8).toNat))
      (Memory.get s.ram (0x100 + (s.sp + 2#8).toNat)) := by
  rw [State.returnFromBreak_eq, State.pc_setPc, State.pullWord_value, State.ram_pull, State.sp_pull,
    add_one_add_one, add_one_add_two]

theorem State.transcript_returnFromBreak : s.returnFromBreak.transcript = s.transcript := by
  simp [State.returnFromBreak_eq]

theorem State.addrLatch_returnFromBreak : s.returnFromBreak.addrLatch = stackAddr (s.sp + 3#8) := by
  rw [State.returnFromBreak_eq, State.addrLatch_setPc, State.addrLatch_setP, State.addrLatch_pullWord,
    State.sp_pull, add_one_add_two]

theorem State.dataLatch_returnFromBreak :
    s.returnFromBreak.dataLatch = Memory.get s.ram (0x100 + (s.sp + 3#8).toNat) := by
  rw [State.returnFromBreak_eq, State.dataLatch_setPc, State.dataLatch_setP, State.dataLatch_pullWord,
    State.pull_pull_value, State.ram_pull, State.sp_pull, add_one_add_two]

end

/-! ## The unassigned opcodes (R96, R240) -/

theorem opcodeOf_unassigned {op : Byte} (h : op ∈ unassignedBytes) : opcodeOf (.unassigned op) = some op :=
  if_pos (List.contains_iff_mem.mpr h)

theorem entryOf_unassigned {op : Byte} (h : op ∈ unassignedBytes) :
    entryOf (.unassigned op) = some (unassignedEntry op) := by
  rw [entryOf, opcodeOf_unassigned h, Option.map_some, entryAt_of_mem_unassignedBytes op h]

theorem encode_unassigned {op : Byte} (h : op ∈ unassignedBytes) : encode (.unassigned op) = [op] := by
  rw [encode, opcodeOf_unassigned h]
  rfl

end Sys2Proof.Machine
end

section
/-! The obligations on stack, flag, no-operation and system instructions. -/

namespace Sys2Proof.Machine

/-- Settles O38: both effects are one push, of `A` and of the status with bits 4 and 5 set. -/
theorem pushesStoreOnTheStack : Obligations.PushesStoreOnTheStack := by
  unfold Obligations.PushesStoreOnTheStack
  exact ⟨rfl, rfl, fun s => ⟨exec_push (e := entryAt 0x48) rfl rfl, exec_push (e := entryAt 0x08) rfl rfl⟩⟩

/-- Settles O39: both effects are one pull and then the pulled byte into `A` (`loadReg`) or, masked, into `P`,
which leave what the pull left. -/
theorem pullsReadTheStack : Obligations.PullsReadTheStack := by
  unfold Obligations.PullsReadTheStack
  refine ⟨rfl, rfl, fun s => ?meaning⟩
  intro v pulled
  have hvalue : s.pull.1 = v := s.pull_value
  rw [← hvalue]
  refine ⟨?pla, ?plp⟩
  case pla =>
    have hexec : exec .pla s = .next ((s.pull.2.loadReg .a s.pull.1).setCyclesPending 4) :=
      exec_next (e := entryAt 0x68) rfl s
    have hframe := (s.keepsBut_pull.trans (State.keepsBut_loadReg _ .a s.pull.1)).trans
      (State.keepsBut_setCyclesPending _ 4)
    exact ⟨_, hexec, rfl, State.znOf_setZN _ _, hframe.of_regs_subset (by decide), s.pull_leaves 4⟩
  case plp =>
    have hexec : exec .plp s = .next ((s.pull.2.setP (maskedStatus s.pull.1)).setCyclesPending 4) :=
      exec_next (e := entryAt 0x28) rfl s
    have hframe := (s.keepsBut_pull.trans (State.keepsBut_setP _ (maskedStatus s.pull.1))).trans
      (State.keepsBut_setCyclesPending _ 4)
    exact ⟨_, hexec, rfl, hframe, s.pull_leaves 4⟩

/-- Settles O41: each effect is one flag write, two cycles by its table entry. -/
theorem flagInstructionsWriteOneFlag : Obligations.FlagInstructionsWriteOneFlag := by
  unfold Obligations.FlagInstructionsWriteOneFlag
  refine ⟨rfl, rfl, rfl, rfl, rfl, rfl, rfl, fun s => ⟨?clc, ?sec, ?cli, ?sei, ?cld, ?sed, ?clv⟩⟩
  case clc => exact exec_setFlag (e := entryAt 0x18) rfl rfl
  case sec => exact exec_setFlag (e := entryAt 0x38) rfl rfl
  case cli => exact exec_setFlag (e := entryAt 0x58) rfl rfl
  case sei => exact exec_setFlag (e := entryAt 0x78) rfl rfl
  case cld => exact exec_setFlag (e := entryAt 0xD8) rfl rfl
  case sed => exact exec_setFlag (e := entryAt 0xF8) rfl rfl
  case clv => exact exec_setFlag (e := entryAt 0xB8) rfl rfl

/-- Settles O42: no effect, and two cycles by the table entries, which are alike. -/
theorem nopAndUnassignedChangeNothing : Obligations.NopAndUnassignedChangeNothing := by
  unfold Obligations.NopAndUnassignedChangeNothing
  exact ⟨rfl, fun s => ⟨exec_next (e := entryAt 0xEA) rfl s,
    fun op h => ⟨encode_unassigned h, exec_next (entryOf_unassigned h) s⟩⟩⟩

/-- Settles O43: BRK's effect is `takeBreak`; its pushes are `breakPushes`, and the vector is read from the
state they leave. -/
theorem brkEntersTheHandler : Obligations.BrkEntersTheHandler := by
  unfold Obligations.BrkEntersTheHandler
  refine ⟨rfl, fun s => ?meaning⟩
  intro ret pushed lo hi
  have hret : (s.pc + 1#16).toNat = ret := toNat_addr_add_one s.pc
  have hpushed : s.breakPushes = pushed := by
    rw [State.breakPushes, State.pushWord, hiByte_eq_ofNat, loByte_eq_ofNat, hret]
    rfl
  have hexec : exec .brk s = .next (s.takeBreak.setCyclesPending 7) := exec_next (e := entryAt 0x00) rfl s
  have hframe := s.keepsBut_takeBreak.trans (State.keepsBut_setCyclesPending _ 7)
  have hbus := s.busAs_takeBreak
  have hpc := s.pc_takeBreak
  rw [hpushed] at hbus hpc
  refine ⟨_, hexec, s.sp_takeBreak, s.flag_i_takeBreak, hframe, ?high, ?low, s.get_takeBreak_status, hpc, hbus, rfl,
    State.pc_takeBreak_of_flat, State.pc_takeBreak_of_open_bus⟩
  case high => rw [State.ram_setCyclesPending, State.get_takeBreak_high, toNat_hiByte, hret]
  case low => rw [State.ram_setCyclesPending, State.get_takeBreak_low, toNat_loByte, hret]

/-- Settles O44: RTI's effect is `returnFromBreak`, three pulls with `P` set from the first. -/
theorem rtiRestoresStatusAndPc : Obligations.RtiRestoresStatusAndPc := by
  unfold Obligations.RtiRestoresStatusAndPc
  refine ⟨rfl, fun s => ?meaning⟩
  have hexec : exec .rti s = .next (s.returnFromBreak.setCyclesPending 6) := exec_next (e := entryAt 0x40) rfl s
  have hframe := s.keepsBut_returnFromBreak.trans (State.keepsBut_setCyclesPending _ 6)
  refine ⟨_, hexec, s.p_returnFromBreak.trans s.pull_value, s.pc_returnFromBreak, s.sp_returnFromBreak, hframe,
    s.transcript_returnFromBreak, ?address, s.dataLatch_returnFromBreak, rfl⟩
  case address =>
    rw [State.addrLatch_setCyclesPending, State.addrLatch_returnFromBreak, toNat_stackAddr]

end Sys2Proof.Machine
end

section
/-! The step always answers: what a fetch reads decodes, what decodes executes, and so only power-off and the test
loop's sentinel stop the run (R92, R110, R250, R287). -/

namespace Sys2Proof

/-! ## As many bytes as the mode has -/

/-- The operand bytes the mode asks for (R92) are enough to decode, and none is left over. -/
theorem decode_of_length {b : Byte} {bs : List Byte} (h : bs.length = (entryAt b).mode.operandBytes) :
    ∃ i, decode (b :: bs) = .ok (i, []) := by
  have hle := (entryAt b).mode.operandBytes_le_two
  match bs with
  | [] | [_] | [_, _] => simp [decode, ← h]
  | _ :: _ :: _ :: bs => simp only [List.length_cons] at h; omega

/-- What the decoder answers has the table entry of its first byte (R94, R95). -/
theorem entryOf_of_decode {b : Byte} {bs rest : List Byte} {i : Instr}
    (h : decode (b :: bs) = .ok (i, rest)) : entryOf i = some (entryAt b) := by
  rw [entryOf, opcodeOf_of_decode h, Option.map_some]

namespace Machine

theorem State.length_fetchBytes (n : Nat) (s : State) : (s.fetchBytes n).1.length = n := by
  induction n generalizing s with
  | zero => rfl
  | succ n ih => rw [State.fetchBytes, List.length_cons, ih]

/-- What a fetch reads decodes, to an instruction with the entry of its opcode byte (R110, R111). -/
theorem State.decode_fetch (s : State) :
    ∃ i, decode s.fetch.1 = .ok (i, []) ∧ entryOf i = some (entryAt s.fetchOpcode.1) := by
  obtain ⟨i, h⟩ := decode_of_length (b := s.fetchOpcode.1) (State.length_fetchBytes _ s.fetchOpcode.2)
  exact ⟨i, h, entryOf_of_decode h⟩

/-! ## Every turn is taken -/

/-- An instruction step completes from every state (R250): neither of its refusals is reached. -/
theorem instructionStep_next (s : State) : ∃ t, instructionStep s = .next t := by
  obtain ⟨i, hdecode, hentry⟩ := s.closeGate.decode_fetch
  simp [instructionStep, hdecode, exec_next hentry]

/-- Every agent's turn has a next state; of them only the CPU's could have failed (R280). -/
theorem State.takeInput_next (i : Input) (s : State) : ∃ t, s.takeInput i = .next t := by
  cases i with
  | cpu =>
    simp only [State.takeInput, State.cpuTurn]
    split
    · exact instructionStep_next s
    · exact ⟨s, rfl⟩
  | tick | powerOff | boot | ppuRead => exact ⟨_, rfl⟩

/-! ## The step -/

/-- A running machine has a next state, whichever turn is next (R287). -/
theorem step_next {s : State} (h : s.running) : ∃ t, step s = .next t := by
  have ⟨hended, hpower⟩ := h
  cases hinputs : s.inputs with
  | cons i rest => simpa [step, hended, hpower, hinputs] using State.takeInput_next i (s.setInputs rest)
  | nil =>
    cases hready : s.ready with
    | true => rw [step_of_cpuEnabled ⟨h, hready, .inl hinputs⟩]; exact instructionStep_next s.turnTaken
    | false => simp [step, hended, hpower, hinputs, hready]

theorem step_of_runEnded {s : State} (h : s.runEnded = true) : step s = .fault .testRunEnded := if_pos h

theorem step_of_poweredOff {s : State} (hpower : s.poweredOn = false) (hended : s.runEnded = false) :
    step s = .fault .poweredOff := by
  simp [step, hended, hpower]

/-- Settles O52: no turn of a running machine fails (`step_next`), because what is fetched always decodes and what
decodes always executes; the two stops are the step's two guards. -/
theorem stepStopsOnlyAtPowerOffOrSentinel : Obligations.StepStopsOnlyAtPowerOffOrSentinel := by
  unfold Obligations.StepStopsOnlyAtPowerOffOrSentinel
  exact fun s => ⟨fun hpower hended => step_next ⟨hended, hpower⟩, step_of_poweredOff, step_of_runEnded⟩

end Machine

end Sys2Proof
end

section
/-! What `Boot` keeps, what an instruction step leaves of the run loop's state, and what one tick of the Clock is as a
whole (R272, R280, R281, R283, R286). -/

namespace Sys2Proof.Machine

/-! ## `Boot` (R272) -/

/-- `Boot` is two bus reads, then `PC` and `S` are set. -/
theorem State.keepsBut_boot (s : State) : s.keepsBut [.sp] [] [] s.boot :=
  ((s.readPair_readsTo resetVector (resetVector + 1#16)).keepsBut.trans (State.keepsBut_setPc _ _)).trans
    (State.keepsBut_setReg _ .sp 0xFF#8)

/-! ## One turn of the run loop (R280, R286) -/

section
variable {s t : State}

/-- The turn that is laid down next is the one taken. -/
theorem step_of_inputs_cons {i : Input} {rest : List Input} (hrun : s.running) (hinputs : s.inputs = i :: rest) :
    step s = (s.setInputs rest).takeInput i := by
  obtain ⟨hended, hpower⟩ := hrun
  simp [step, hended, hpower, hinputs]

theorem step_of_powerOff {rest : List Input} (hrun : s.running) (hinputs : s.inputs = .powerOff :: rest) :
    step s = .next ((s.setInputs rest).setPoweredOn false) :=
  step_of_inputs_cons hrun hinputs

/-- An instruction leaves everything that is not the CPU's; its cycle count is set apart (R112). -/
theorem exec_keepsRun {i : Instr} (h : exec i s = .next t) : s.keepsRun t := by
  obtain ⟨e, -, rfl⟩ := exec_eq_next h
  exact effect_keepsRun i s

/-- An instruction step runs the one instruction the fetched bytes are, with none left over (R110), and up to the
poll nothing of the run loop's state changes but the gate, which it closes first. -/
theorem instructionStep_completes (s : State) :
    ∃ i f, decode s.closeGate.fetch.1 = .ok (i, []) ∧ exec i s.closeGate.fetch.2 = .next f ∧
      instructionStep s = .next f.pollTest ∧ s.closeGate.keepsRun f := by
  obtain ⟨i, hdecode, hentry⟩ := s.closeGate.decode_fetch
  have hexec := exec_next hentry s.closeGate.fetch.2
  obtain ⟨hfetch, -⟩ := s.closeGate.fetch_keeps
  exact ⟨i, _, hdecode, hexec, by simp [instructionStep, hdecode, hexec], hfetch.trans (exec_keepsRun hexec)⟩

end

/-! ## One tick of the Clock (R281, R283) -/

/-- What the transcript records of a call of a tick callback. -/
def tickCall : TickCallback → Option Event
  | .external id => some (.tickTold id)
  | .gate => none

@[simp] theorem State.setTranscript_setTranscript (tr tr' : List Event) (s : State) :
    (s.setTranscript tr).setTranscript tr' = s.setTranscript tr' := rfl

/-- `GateTick` does not see the exchanges with the peripherals. -/
theorem State.commute_gateTick_setTranscript (tr : List Event) :
    Function.Commute State.gateTick (State.setTranscript tr) := by
  intro s
  by_cases h : s.tickCount + 1 = s.platform.tickDivisor
  · rw [State.gateTick_boundary h, State.gateTick_boundary (s := s.setTranscript tr) h]
    rfl
  · rw [State.gateTick_inside h, State.gateTick_inside (s := s.setTranscript tr) h]
    rfl

@[simp] theorem State.transcript_gateTick (s : State) : s.gateTick.transcript = s.transcript := by
  obtain ⟨n, k, r, h⟩ := s.gateTick_only
  rw [h]
  rfl

/-- Calling callbacks in order: since `GateTick` and the external calls commute, the calls are those of the external
ones, and the gate ticks as often as it is on the list. -/
theorem State.foldl_callTick_eq (cs : List TickCallback) (s : State) :
    cs.foldl State.callTick s =
      (State.gateTick^[cs.count .gate] s).setTranscript ((cs.filterMap tickCall).reverse ++ s.transcript) := by
  induction cs generalizing s with
  | nil => rfl
  | cons c cs ih =>
    rw [List.foldl_cons, ih]
    cases c with
    | gate => simp [State.callTick, tickCall, List.filterMap_cons]
    | external id =>
      have hcommute := (State.commute_gateTick_setTranscript (.tickTold id :: s.transcript)).iterate_left (cs.count .gate) s
      simp [State.callTick, tickCall, hcommute]

end Sys2Proof.Machine
end

section
/-! The obligations on `Boot`, power-off and the Clock's tick. -/

namespace Sys2Proof.Machine

/-- Settles O13: `Boot` is those two reads and two register writes by its definition; its frame is theirs. -/
theorem bootSetsPcFromTheVectorAndS : Obligations.BootSetsPcFromTheVectorAndS := by
  unfold Obligations.BootSetsPcFromTheVectorAndS
  exact fun s => ⟨rfl, s.keepsBut_boot, s.cyclesPending_boot, s.addrLatch_boot, s.dataLatch_boot⟩

/-- Settles O53: power-off is a turn that clears the flag, after which `step` stops; the CPU's turn before it is a
whole instruction step (`instructionStep_completes`), which leaves the power and the turns behind it. Every step that
answers a next state began with the power on. -/
theorem powerOffIsFinal : Obligations.PowerOffIsFinal := by
  unfold Obligations.PowerOffIsFinal
  refine ⟨fun s rest hrun hinputs => ?nextTurn, fun s rest hcpu hinputs => ?afterInstruction, fun s t h _ => ?final⟩
  case nextTurn =>
    have ⟨hended, _⟩ := hrun
    exact ⟨step_of_powerOff hrun hinputs, step_of_poweredOff rfl hended⟩
  case afterInstruction =>
    obtain ⟨i, f, hdecode, hexec, hstep, -, -, -, hpower, -, hturns⟩ := instructionStep_completes s.turnTaken
    obtain ⟨-, -, -, hpollPower, hpollTurns, -⟩ := f.pollTest_keeps
    have ⟨⟨_, hon⟩, _⟩ := hcpu
    have htail : s.turnTaken.inputs = .powerOff :: rest := congrArg List.tail hinputs
    have hpower' : f.pollTest.poweredOn = true := (hpollPower.trans hpower).trans hon
    have hturns' : f.pollTest.inputs = .powerOff :: rest := (hpollTurns.trans hturns).trans htail
    exact ⟨f.pollTest, (step_of_cpuEnabled hcpu).trans hstep, hpower', hturns', ⟨i, f, hdecode, hexec, rfl⟩,
      fun hended => step_of_powerOff ⟨hended, hpower'⟩ hturns'⟩
  case final =>
    obtain ⟨⟨-, hon⟩, -⟩ := step_cases h
    exact hon

/-- Settles O56: the two branches of `GateTick`, the second split by whether the countdown ends; a tick by induction
on the list of callbacks (`foldl_callTick_eq`). -/
theorem gateTickCountsDown : Obligations.GateTickCountsDown := by
  unfold Obligations.GateTickCountsDown
  refine fun s => ⟨State.gateTick_inside, fun h hpending => ?counting, fun h hpending => ?opens,
    s.foldl_callTick_eq _⟩
  case counting =>
    have hne : s.cyclesPending - 1 ≠ 0 := by omega
    rw [State.gateTick_boundary h, beq_false_of_ne hne, Bool.or_false]
    rfl
  case opens =>
    have hzero : s.cyclesPending - 1 = 0 := by omega
    rw [State.gateTick_boundary h, hzero, beq_self_eq_true, Bool.or_true]

end Sys2Proof.Machine
end

section
/-! The encoding round trip: what the matrix (R95) makes of an instruction's own operand bytes, and which operand bytes
what it makes has (R92, R93, R97). -/

namespace Sys2Proof

/-! ## Operands and their bytes (R93) -/

/-- An operand is what its form makes of its bytes. -/
theorem Form.operand_bytes (o : Operand) : o.form.operand (o.bytes.getD 0 0) (o.bytes.getD 1 0) = o := by
  cases o with
  | abs w | abx w | aby w | ind w => simp [Operand.form, Form.operand, Operand.bytes]
  | _ => rfl

/-- An operand has as many bytes as its form, the ones it was made of. -/
theorem Operand.bytes_operand (f : Form) (b1 b2 : Byte) : (f.operand b1 b2).bytes = [b1, b2].take f.operandBytes := by
  cases f with
  | abs | abx | aby | ind => simp [Form.operand, Operand.bytes, Form.operandBytes]
  | _ => rfl

/-- The operand bytes of an instruction of mode `m` made of the bytes `b1`, `b2`. -/
def Mode.bytes (m : Mode) (b1 b2 : Byte) : List Byte :=
  match m with
  | .opd f => (f.operand b1 b2).bytes
  | .rel => [b1]
  | .imp | .stk => []

theorem Mode.bytes_eq_take (m : Mode) (b1 b2 : Byte) : m.bytes b1 b2 = [b1, b2].take m.operandBytes := by
  cases m with
  | opd f => exact Operand.bytes_operand f b1 b2
  | rel | imp | stk => rfl

/-- What the entry of a byte makes has the operand bytes of the entry's mode (R92, R95). Each of the 256 cells is its
own case, where the operand stays free. -/
theorem operandBytes_make (b b1 b2 : Byte) :
    ((entryAt b).make b1 b2).operandBytes = (entryAt b).mode.bytes b1 b2 := by
  fin_cases b <;> rfl

/-! ## From the table by mnemonic back to the matrix (R95, R97) -/

theorem mem_of_opcodeAt {o : Operand} {l : List (Form × Byte)} {b : Byte} (h : opcodeAt o l = some b) :
    (o.form, b) ∈ l := by
  induction l with
  | nil => cases h
  | cons p l ih =>
    obtain ⟨f, c⟩ := p
    rw [opcodeAt] at h
    split at h
    · next hf => cases h; rw [hf]; exact List.mem_cons_self
    · exact List.mem_cons_of_mem _ (ih h)

/-- Where the matrix holds `f` at the forms and bytes of a row of the table by mnemonic, it makes `f o` of the bytes
of `o`. -/
theorem make_bytes_of_opcodeAt {f : Operand → Instr} {o : Operand} {l : List (Form × Byte)} {b : Byte}
    (h : opcodeAt o l = some b)
    (hl : l.map (fun p => (entryAt p.2).make) = l.map fun p b1 b2 => f (p.1.operand b1 b2)) :
    (entryAt b).make (o.bytes.getD 0 0) (o.bytes.getD 1 0) = f o := by
  have hmake := List.map_inj_left.mp hl _ (mem_of_opcodeAt h)
  rw [hmake]
  exact congrArg f (Form.operand_bytes o)

/-- The entry of an instruction's opcode makes the instruction of its operand bytes. -/
theorem make_operandBytes {i : Instr} {b : Byte} (h : opcodeOf i = some b) :
    (entryAt b).make (i.operandBytes.getD 0 0) (i.operandBytes.getD 1 0) = i := by
  cases i with
  | lda o | ldx o | ldy o | sta o | stx o | sty o | adc o | sbc o | cmp o | cpx o | cpy o | inc o | dec o
  | and o | ora o | eor o | bit o | asl o | lsr o | rol o | ror o | jmp o | jsr o =>
    exact make_bytes_of_opcodeAt h rfl
  | unassigned op =>
    have hmem := mem_unassignedBytes_of_opcodeOf h
    obtain rfl : op = b := Option.some.inj ((Machine.opcodeOf_unassigned hmem).symm.trans h)
    rw [entryAt_of_mem_unassignedBytes op hmem]
    rfl
  | _ => cases h; rfl

/-! ## The round trip -/

theorem opcodeOf_of_wellFormed {i : Instr} (h : i.wellFormed = true) : ∃ b, opcodeOf i = some b := by
  rw [wellFormed_eq_isSome] at h
  exact Option.isSome_iff_exists.mp h

theorem encode_of_opcodeOf {i : Instr} {b : Byte} (h : opcodeOf i = some b) : encode i = b :: i.operandBytes := by
  rw [encode, h]

theorem length_operandBytes {i : Instr} {b : Byte} (h : opcodeOf i = some b) :
    i.operandBytes.length = (entryAt b).mode.operandBytes := by
  have hentry : entryOf i = some (entryAt b) := by rw [entryOf, h, Option.map_some]
  obtain ⟨hlen, -⟩ := encodeLength i _ hentry
  rw [encode_of_opcodeOf h, List.length_cons, Entry.length] at hlen
  omega

/-- As many bytes as the mode asks for decode, and what follows them is left over (R92). -/
theorem decode_append {b : Byte} {bs : List Byte} (h : bs.length = (entryAt b).mode.operandBytes)
    (rest : List Byte) :
    decode (b :: (bs ++ rest)) = .ok ((entryAt b).make (bs.getD 0 0) (bs.getD 1 0), rest) := by
  have hle := (entryAt b).mode.operandBytes_le_two
  match bs with
  | [] | [_] | [_, _] => simp [decode, ← h]
  | _ :: _ :: _ :: bs => simp only [List.length_cons] at h; omega

/-- What decodes is an opcode, the operand bytes of what it decodes to, and the rest. -/
theorem eq_append_of_decode {b : Byte} {bs rest : List Byte} {i : Instr} (h : decode (b :: bs) = .ok (i, rest)) :
    bs = i.operandBytes ++ rest := by
  simp only [decode] at h
  split at h
  case h_4 => cases h
  all_goals
    next hn =>
    cases h
    rw [operandBytes_make, Mode.bytes_eq_take, hn]
    rfl

namespace Machine

/-- Settles O1: the decoder takes as many bytes as the mode of the opcode's entry has (`decode_append`), and of these
bytes the entry makes the instruction again (`make_operandBytes`). -/
theorem decodeOfEncodeIsTheInstruction : Obligations.DecodeOfEncodeIsTheInstruction := by
  unfold Obligations.DecodeOfEncodeIsTheInstruction
  intro i rest hwf
  obtain ⟨b, hop⟩ := opcodeOf_of_wellFormed hwf
  rw [encode_of_opcodeOf hop, List.cons_append, decode_append (length_operandBytes hop), make_operandBytes hop]

/-- Settles O2: what is decoded keeps its opcode byte (`opcodeOf_of_decode`), so it is in the table, and its operand
bytes are those that were taken (`eq_append_of_decode`). -/
theorem decodedInstructionEncodesBack : Obligations.DecodedInstructionEncodesBack := by
  unfold Obligations.DecodedInstructionEncodesBack
  intro bs rest i h
  cases bs with
  | nil => cases h
  | cons b bs =>
    have hop := opcodeOf_of_decode h
    refine ⟨by rw [wellFormed_eq_isSome, hop, Option.isSome_some], ?_⟩
    rw [encode_of_opcodeOf hop, List.cons_append, ← eq_append_of_decode h]

/-- Settles O4: the decoder run on fourteen byte strings. -/
theorem exampleBytesDecode : Obligations.ExampleBytesDecode := by
  unfold Obligations.ExampleBytesDecode
  exact ⟨rfl, rfl, rfl, rfl, rfl, rfl, rfl, rfl, rfl, rfl, rfl, rfl, rfl, rfl⟩

end Machine

end Sys2Proof
end

section
/-! The frame of every instruction: registers, flags, cells, `PC` and the transcript, constructor by constructor from
the frames of the operations (R21 to R28, R113, R115). -/

namespace Sys2Proof.Machine

theorem wellFormed_of_entryOf {i : Instr} {e : Entry} (h : entryOf i = some e) : i.wellFormed = true := by
  by_contra hwf
  rw [entryOf_eq_none (Bool.eq_false_of_not_eq_true hwf)] at h
  cases h

/-! ## Registers, flags and cells -/

theorem State.keepsBut.refl (s : State) : s.keepsBut [] [] [] s := (State.readsTo.refl s).keepsBut

theorem State.keepsBut_jumpTo (pl : Place) (s : State) : s.keepsBut [] [] [] (s.jumpTo pl) := by
  cases pl with
  | acc => exact .refl s
  | imm _ ea | mem ea _ => exact s.keepsBut_setPc ea

/-- A store's effect: its row of the table has neither Accumulator nor Immediate (R143 to R145). -/
theorem State.keepsBut_store {o : Operand} {l : List Form} (hl : ∀ f ∈ l, f ∉ [Form.acc, .imm])
    (h : l.contains o.form = true) (v : Byte) (s : State) :
    s.keepsBut [] [] (s.placeCells o) ((s.place o).2.writeBack (s.place o).1 v) := by
  have hform := hl _ (List.contains_iff_mem.mp h)
  have himm : o.form ≠ .imm := fun e => hform (by simp [e])
  have hacc : o ≠ .acc := fun e => hform (by simp [e, Operand.form])
  have hreads := s.place_readsTo o
  have hframe := hreads.keepsBut.trans (State.keepsBut_writeBack hreads himm v)
  rwa [if_neg hacc] at hframe

/-- INC's and DEC's effect (R165, R166). -/
theorem State.keepsBut_modify {o : Operand} (h : rmwForms.contains o.form = true) (f : Byte → Bool → Byte)
    (s : State) : s.keepsBut [] [.z, .n] (s.placeCells o) (s.modify o f) := by
  have himm : o.form ≠ .imm := fun e => by simp [e, rmwForms] at h
  have hacc : o ≠ .acc := fun e => by simp [e, Operand.form, rmwForms] at h
  obtain ⟨hframe, -⟩ := State.wroteBack_modify (s := s) (f := f) himm rfl
  rwa [if_neg hacc] at hframe

/-- A shift's effect (R184 to R188). -/
theorem State.keepsBut_shift {o : Operand} {regs : List Reg} (hregs : regs = if o = .acc then [.a] else [])
    (h : (Form.acc :: rmwForms).contains o.form = true) (f : Byte → Bool → Byte) (out : Byte → Bool) (s : State) :
    s.keepsBut regs [.c, .z, .n] (s.placeCells o) (s.shift o f out) := by
  have himm : o.form ≠ .imm := fun e => by simp [e, rmwForms] at h
  obtain ⟨hframe, -⟩ := (State.wroteBack_modify (s := s) (f := f) himm rfl).setFlag_c (out (s.operand o).1)
  rwa [hregs]

/-- A branch's effect (R200). -/
theorem State.keepsBut_branch (taken : Bool) (w : Addr) (s : State) :
    s.keepsBut [] [] [] (if taken then s.setPc w else s) := by
  cases taken with
  | false => exact .refl s
  | true => exact s.keepsBut_setPc w

/-- JSR's effect (R211). -/
theorem State.keepsBut_jsr (o : Operand) (w : Addr) (pl : Place) (s : State) :
    s.keepsBut [.sp] [] [stackCell s.sp, stackCell (s.sp - 1#8)] (((s.place o).2.pushWord w).jumpTo pl) := by
  have hpush := State.keepsBut_pushWord (s.place o).2 w
  rw [State.sp_place] at hpush
  exact ((s.place_readsTo o).keepsBut.trans hpush).trans (State.keepsBut_jumpTo pl _)

/-- An instruction of the table changes only the registers, flags and cells listed for it (R21 to R28, R115). -/
theorem effect_keepsBut {i : Instr} (hwf : i.wellFormed = true) (s : State) :
    s.keepsBut (regsWritten i) (flagsWritten i) (cellsWritten s i) (effect i s) := by
  cases i with
  | lda o | and o | ora o | eor o => exact (s.operand_readsTo o).keepsBut.trans (State.keepsBut_loadReg _ .a _)
  | ldx o => exact (s.operand_readsTo o).keepsBut.trans (State.keepsBut_loadReg _ .x _)
  | ldy o => exact (s.operand_readsTo o).keepsBut.trans (State.keepsBut_loadReg _ .y _)
  | adc o | sbc o =>
    exact (s.operand_readsTo o).keepsBut.trans
      ((State.keepsBut_addWithCarry _ _).of_flags_subset (fs' := [.c, .z, .v, .n]) (by decide))
  | cmp o | cpx o | cpy o => exact (s.operand_readsTo o).keepsBut.trans (State.keepsBut_compare _ _ _)
  | bit o => exact (s.operand_readsTo o).keepsBut.trans (State.keepsBut_bitTest _ _)
  | sta o | stx o | sty o => exact State.keepsBut_store (by decide) hwf _ s
  | inc o | dec o => rw [effect]; exact State.keepsBut_modify hwf _ s
  | asl o | lsr o | rol o | ror o =>
    rw [effect]
    exact State.keepsBut_shift (by cases o <;> rfl) hwf _ _ s
  | txa | tya => exact s.keepsBut_loadReg .a _
  | tax | tsx | inx | dex => exact s.keepsBut_loadReg .x _
  | tay | iny | dey => exact s.keepsBut_loadReg .y _
  | txs => exact s.keepsBut_setReg .sp s.x
  | bcc d | bcs d | beq d | bmi d | bne d | bpl d | bvc d | bvs d => exact s.keepsBut_branch _ _
  | jmp o => exact (s.place_readsTo o).keepsBut.trans (State.keepsBut_jumpTo _ _)
  | jsr o => exact s.keepsBut_jsr o _ _
  | rts => exact s.keepsBut_pullWord.trans (State.keepsBut_setPc _ _)
  | pha | php => exact s.keepsBut_push _
  | pla => exact (s.keepsBut_pull.trans (State.keepsBut_loadReg _ .a _)).of_regs_subset (by decide)
  | plp => exact s.keepsBut_pull.trans (State.keepsBut_setP _ _)
  | clc | sec | cli | sei | cld | sed | clv => exact s.keepsBut_setFlag _ _
  | brk => exact s.keepsBut_takeBreak
  | rti => exact s.keepsBut_returnFromBreak
  | nop | unassigned op => exact .refl s

/-! ## `PC` -/

/-- Only control transfers move `PC` on from the address after the instruction (R26). -/
theorem pc_effect {i : Instr} (h : writesPc i = false) (s : State) : (effect i s).pc = s.pc := by
  cases i with
  | bcc d | bcs d | beq d | bmi d | bne d | bpl d | bvc d | bvs d | jmp o | jsr o | rts | rti | brk => cases h
  | lda o | ldx o | ldy o | adc o | sbc o | cmp o | cpx o | cpy o | and o | ora o | eor o | bit o =>
    exact s.pc_operand o
  | sta o | stx o | sty o => exact (State.pc_writeBack _ _ _).trans (s.pc_place o)
  | inc o | dec o | asl o | lsr o | rol o | ror o => exact (State.pc_writeBack _ _ _).trans (s.pc_operand o)
  | _ => rfl

/-! ## The transcript -/

theorem State.readsTo.transcript_suffix {s t : State} (h : s.readsTo t) : s.transcript <:+ t.transcript := by
  obtain ⟨_, _, evs, rfl⟩ := h
  exact ⟨evs, rfl⟩

theorem State.transcript_suffix_busWrite (a : Addr) (v : Byte) (s : State) :
    s.transcript <:+ (s.busWrite a v).transcript := by
  by_cases h : a.toNat < 0x2000
  · rw [s.transcript_busWrite_of_lt v h]
  · rw [s.transcript_busWrite_of_le v (Nat.not_lt.mp h)]
    exact List.suffix_append _ _

theorem State.transcript_suffix_writeBack (pl : Place) (v : Byte) (s : State) :
    s.transcript <:+ (s.writeBack pl v).transcript := by
  cases pl with
  | acc => exact List.suffix_rfl
  | imm _ ea | mem ea _ => exact s.transcript_suffix_busWrite ea v

@[simp] theorem State.transcript_jumpTo (pl : Place) (s : State) : (s.jumpTo pl).transcript = s.transcript := by
  cases pl <;> rfl

theorem State.transcript_suffix_takeBreak (s : State) : s.transcript <:+ s.takeBreak.transcript := by
  obtain ⟨-, -, htranscript⟩ := s.busAs_takeBreak
  have hpushes : s.breakPushes.transcript = s.transcript := by simp [State.breakPushes]
  rw [htranscript, ← hpushes]
  exact (State.readPair_readsTo _ _ _).transcript_suffix

/-- Every instruction only adds to the exchanges with the peripherals. -/
theorem transcript_suffix_effect (i : Instr) (s : State) : s.transcript <:+ (effect i s).transcript := by
  cases i with
  | lda o | ldx o | ldy o | adc o | sbc o | cmp o | cpx o | cpy o | and o | ora o | eor o | bit o =>
    exact (s.operand_readsTo o).transcript_suffix
  | sta o | stx o | sty o => exact (s.place_readsTo o).transcript_suffix.trans (State.transcript_suffix_writeBack _ _ _)
  | inc o | dec o | asl o | lsr o | rol o | ror o =>
    exact (s.operand_readsTo o).transcript_suffix.trans (State.transcript_suffix_writeBack _ _ _)
  | bcc d | bcs d | beq d | bmi d | bne d | bpl d | bvc d | bvs d =>
    simp only [effect]; split <;> exact List.suffix_rfl
  | jmp o => rw [effect, State.transcript_jumpTo]; exact (s.place_readsTo o).transcript_suffix
  | jsr o =>
    rw [effect, State.transcript_jumpTo, State.transcript_pushWord]
    exact (s.place_readsTo o).transcript_suffix
  | rts => rw [effect, State.transcript_setPc, State.transcript_pullWord]
  | pha | php => rw [effect, State.transcript_push]
  | pla => rw [effect, State.transcript_setZN, State.transcript_setA, State.transcript_pull]
  | plp => rw [effect, State.transcript_setP, State.transcript_pull]
  | brk => exact s.transcript_suffix_takeBreak
  | rti => rw [effect, State.transcript_returnFromBreak]
  | _ => exact List.suffix_rfl

end Sys2Proof.Machine
end

section
/-! The obligations on what any instruction does: it completes, and it changes only what the spec lists for it. -/

namespace Sys2Proof.Machine

/-- Settles O46: `exec` needs a table entry and nothing else of the state (`exec_next`, `exec_refused`). -/
theorem everyInstructionCompletes : Obligations.EveryInstructionCompletes := by
  unfold Obligations.EveryInstructionCompletes
  refine fun i s => ⟨fun hwf => ?completes, fun hwf => exec_refused (entryOf_eq_none hwf) s⟩
  case completes =>
    obtain ⟨e, hentry⟩ := entryOf_of_wellFormed hwf
    exact ⟨_, exec_next hentry s⟩

/-- Settles O47: the next state is the effect, whose frame is `effect_keepsBut`, with the cycle count set. -/
theorem onlyListedStateChanges : Obligations.OnlyListedStateChanges := by
  unfold Obligations.OnlyListedStateChanges
  intro i s t h
  obtain ⟨e, hentry, rfl⟩ := exec_eq_next h
  have hframe := effect_keepsBut (wellFormed_of_entryOf hentry) s
  obtain ⟨evs, hevs⟩ := transcript_suffix_effect i s
  refine ⟨?frame, fun hpc => pc_effect hpc s, effect_wf i s, evs, hevs.symm⟩
  case frame => simpa using hframe.trans (State.keepsBut_setCyclesPending _ _)

end Sys2Proof.Machine
end

section
/-! Which parts of the state no instruction looks at: the flags `B`, `U` and `D` (R2, R30), and the gate's three fields
(R290). -/

namespace Sys2Proof.Machine

/-! ## States that differ in some flags only -/

/-- `t` is `s` with another `P`, and the two agree on the flags not in `fs`. -/
def State.differsIn (fs : List Flag) (s t : State) : Prop :=
  ∃ q, t = s.setP q ∧ s.keepsFlags fs t

section
variable {fs : List Flag} {s t : State}

theorem State.differsIn.flag_eq (h : s.differsIn fs t) {f : Flag} (hf : f ∉ fs) : t.flag f = s.flag f := by
  obtain ⟨q, -, hflags⟩ := h
  exact hflags f hf

/-- An operation that writes no flag and does not look at `P` keeps the difference. -/
theorem State.differsIn.map (h : s.differsIn fs t) {g : State → State} (hcommute : ∀ q, g (s.setP q) = (g s).setP q)
    (hp : (g s).p = s.p) : (g s).differsIn fs (g t) := by
  obtain ⟨q, rfl, hflags⟩ := h
  refine ⟨q, hcommute q, fun f hf => ?_⟩
  rw [hcommute, State.flag_setP, State.flag, hp]
  exact hflags f hf

/-- Writing one flag alike keeps the difference. -/
theorem State.differsIn.setFlag (h : s.differsIn fs t) (f : Flag) (v : Bool) :
    (s.setFlag f v).differsIn fs (t.setFlag f v) := by
  obtain ⟨q, rfl, hflags⟩ := h
  refine ⟨putFlag f v q, rfl, fun g hg => ?_⟩
  rw [State.flag_setFlag, State.flag_setFlag, hflags g hg]

/-- Writing the whole of `P` alike leaves no difference. -/
theorem State.differsIn.setP (h : s.differsIn fs t) (v : Byte) : (s.setP v).differsIn fs (t.setP v) := by
  obtain ⟨q, rfl, -⟩ := h
  exact ⟨v, rfl, fun _ _ => rfl⟩

theorem State.differsIn.setZN (h : s.differsIn fs t) (v : Byte) : (s.setZN v).differsIn fs (t.setZN v) :=
  (h.setFlag .z _).setFlag .n _

theorem State.differsIn.refl (s : State) : s.differsIn fs s := ⟨s.p, rfl, fun _ _ => rfl⟩

/-! ### The shapes of instruction -/

theorem State.differsIn.setReg (h : s.differsIn fs t) (r : Reg) (v : Byte) :
    (s.setReg r v).differsIn fs (t.setReg r v) :=
  h.map (g := State.setReg r v) (fun _ => by cases r <;> rfl) (by cases r <;> rfl)

theorem State.differsIn.setPc (h : s.differsIn fs t) (w : Addr) : (s.setPc w).differsIn fs (t.setPc w) :=
  h.map (g := State.setPc w) (fun _ => rfl) rfl

theorem State.differsIn.loadReg (h : s.differsIn fs t) (r : Reg) (v : Byte) :
    (s.loadReg r v).differsIn fs (t.loadReg r v) :=
  (h.setReg r v).setZN v

theorem State.differsIn.compare (h : s.differsIn fs t) (r m : Byte) :
    (s.compare r m).differsIn fs (t.compare r m) :=
  (h.setFlag .c _).setZN _

theorem State.differsIn.bitTest (h : s.differsIn fs t) (m : Byte) : (s.bitTest m).differsIn fs (t.bitTest m) := by
  obtain ⟨q, rfl, -⟩ := id h
  exact ((h.setFlag .z _).setFlag .v _).setFlag .n _

/-- The carry goes into the sum, so it has to be the same in both. -/
theorem State.differsIn.addWithCarry (h : s.differsIn fs t) (hc : .c ∉ fs) (m : Byte) :
    (s.addWithCarry m).differsIn fs (t.addWithCarry m) := by
  have hcarry := h.flag_eq hc
  obtain ⟨q, rfl, -⟩ := id h
  simp only [State.addWithCarry, hcarry]
  exact ((h.setFlag .c _).setFlag .v _).loadReg .a _

theorem State.differsIn.branch (h : s.differsIn fs t) (taken : Bool) (w : Addr) :
    (if taken then s.setPc w else s).differsIn fs (if taken then t.setPc w else t) := by
  cases taken with
  | false => exact h
  | true => exact h.setPc w

/-- The resolver's reads do not depend on `P`. -/
theorem State.differsIn.place (h : s.differsIn fs t) (o : Operand) :
    (t.place o).1 = (s.place o).1 ∧ (s.place o).2.differsIn fs (t.place o).2 := by
  refine ⟨?_, h.map (g := fun u => (u.place o).2) (fun q => by rw [State.place_setP]) (s.p_place o)⟩
  obtain ⟨q, rfl, -⟩ := h
  rw [State.place_setP]

theorem State.differsIn.operand (h : s.differsIn fs t) (o : Operand) :
    (t.operand o).1 = (s.operand o).1 ∧ (s.operand o).2.differsIn fs (t.operand o).2 := by
  refine ⟨?_, h.map (g := fun u => (u.operand o).2) (fun q => by rw [State.operand_setP]) (s.p_operand o)⟩
  obtain ⟨q, rfl, -⟩ := h
  rw [State.operand_setP]

theorem State.differsIn.writeBack (h : s.differsIn fs t) (pl : Place) (v : Byte) :
    (s.writeBack pl v).differsIn fs (t.writeBack pl v) :=
  h.map (g := State.writeBack pl v) (fun q => s.writeBack_setP q pl v) (s.p_writeBack pl v)

theorem State.differsIn.jumpTo (h : s.differsIn fs t) (pl : Place) : (s.jumpTo pl).differsIn fs (t.jumpTo pl) :=
  h.map (g := State.jumpTo pl) (fun q => s.jumpTo_setP q pl) (s.p_jumpTo pl)

theorem State.differsIn.pushWord (h : s.differsIn fs t) (w : Addr) : (s.pushWord w).differsIn fs (t.pushWord w) :=
  h.map (g := State.pushWord w) (fun q => s.pushWord_setP q w) (s.p_pushWord w)

theorem State.differsIn.push (h : s.differsIn fs t) (v : Byte) : (s.push v).differsIn fs (t.push v) :=
  h.map (g := State.push v) (fun q => s.push_setP q v) (s.p_push v)

theorem State.differsIn.pull (h : s.differsIn fs t) : t.pull.1 = s.pull.1 ∧ s.pull.2.differsIn fs t.pull.2 := by
  refine ⟨?_, h.map (g := fun u => u.pull.2) (fun q => by rw [State.pull_setP]) s.p_pull⟩
  obtain ⟨q, rfl, -⟩ := h
  rw [State.pull_setP]

theorem State.differsIn.pullWord (h : s.differsIn fs t) :
    t.pullWord.1 = s.pullWord.1 ∧ s.pullWord.2.differsIn fs t.pullWord.2 := by
  refine ⟨?_, h.map (g := fun u => u.pullWord.2) (fun q => by rw [State.pullWord_setP]) s.p_pullWord⟩
  obtain ⟨q, rfl, -⟩ := h
  rw [State.pullWord_setP]

theorem State.differsIn.modify (h : s.differsIn fs t) (hc : .c ∉ fs) (o : Operand) (f : Byte → Bool → Byte) :
    (s.modify o f).differsIn fs (t.modify o f) := by
  obtain ⟨hvalue, hafter⟩ := h.operand o
  obtain ⟨hplace, -⟩ := h.place o
  simp only [State.modify, hvalue, hplace, h.flag_eq hc]
  exact (hafter.writeBack _ _).setZN _

theorem State.differsIn.shift (h : s.differsIn fs t) (hc : .c ∉ fs) (o : Operand) (f : Byte → Bool → Byte)
    (out : Byte → Bool) : (s.shift o f out).differsIn fs (t.shift o f out) := by
  obtain ⟨hvalue, -⟩ := h.operand o
  rw [State.shift, State.shift, hvalue]
  exact (h.modify hc o f).setFlag .c _

/-- The trap pushes `P`; what it pushes has to be the same in both. -/
theorem State.differsIn.takeBreak (h : s.differsIn fs t) (hpushed : pushedStatus t.p = pushedStatus s.p) :
    s.takeBreak.differsIn fs t.takeBreak := by
  obtain ⟨q, rfl, hflags⟩ := h
  refine ⟨putFlag .i true q, s.takeBreak_setP q hpushed, fun f hf => ?_⟩
  rw [s.takeBreak_setP q hpushed, State.flag_setP, State.flag, State.p_takeBreak, getLsbD_putFlag, getLsbD_putFlag]
  split
  · rfl
  · exact hflags f hf

/-! ### Every instruction -/

/-- No instruction lets `B`, `U` or `D` into anything else, PHP and BRK apart, which push the status (R2, R30). -/
theorem effect_differsIn (h : s.differsIn fs t) (hfs : ∀ f ∈ fs, f ∈ [Flag.b, .u, .d]) {i : Instr}
    (hpushed : i ∈ [.php, .brk] → pushedStatus t.p = pushedStatus s.p) :
    (effect i s).differsIn fs (effect i t) := by
  have hc : .c ∉ fs := fun hf => absurd (hfs _ hf) (by decide)
  have hz : .z ∉ fs := fun hf => absurd (hfs _ hf) (by decide)
  have hv : .v ∉ fs := fun hf => absurd (hfs _ hf) (by decide)
  have hn : .n ∉ fs := fun hf => absurd (hfs _ hf) (by decide)
  obtain ⟨q, rfl, -⟩ := id h
  have hread (o : Operand) : (s.operand o).2.differsIn fs ((s.operand o).2.setP q) := by
    simpa only [State.operand_setP] using (h.operand o).2
  have hplace (o : Operand) : (s.place o).2.differsIn fs ((s.place o).2.setP q) := by
    simpa only [State.place_setP] using (h.place o).2
  cases i with
  | lda o | and o | ora o | eor o => simp only [effect, State.operand_setP]; exact (hread o).loadReg .a _
  | ldx o => simp only [effect, State.operand_setP]; exact (hread o).loadReg .x _
  | ldy o => simp only [effect, State.operand_setP]; exact (hread o).loadReg .y _
  | adc o | sbc o => simp only [effect, State.operand_setP]; exact (hread o).addWithCarry hc _
  | cmp o | cpx o | cpy o => simp only [effect, State.operand_setP]; exact (hread o).compare _ _
  | bit o => simp only [effect, State.operand_setP]; exact (hread o).bitTest _
  | sta o | stx o | sty o => simp only [effect, State.place_setP]; exact (hplace o).writeBack _ _
  | inc o | dec o => simp only [effect]; exact h.modify hc o _
  | asl o | lsr o | rol o | ror o => simp only [effect]; exact h.shift hc o _ _
  | bcc d | bcs d => simp only [effect, h.flag_eq hc]; exact h.branch _ _
  | beq d | bne d => simp only [effect, h.flag_eq hz]; exact h.branch _ _
  | bvc d | bvs d => simp only [effect, h.flag_eq hv]; exact h.branch _ _
  | bmi d | bpl d => simp only [effect, h.flag_eq hn]; exact h.branch _ _
  | jmp o => simp only [effect, State.place_setP]; exact (hplace o).jumpTo _
  | jsr o => simp only [effect, State.place_setP]; exact ((hplace o).pushWord _).jumpTo _
  | rts => rw [effect, effect, h.pullWord.1]; exact h.pullWord.2.setPc _
  | txa | tya => exact h.loadReg .a _
  | tax | tsx | inx | dex => exact h.loadReg .x _
  | tay | iny | dey => exact h.loadReg .y _
  | txs => exact h.setReg .sp _
  | pha => exact h.push s.a
  | php => rw [effect, effect, hpushed (by decide)]; exact h.push _
  | pla => rw [effect, effect, h.pull.1]; exact h.pull.2.loadReg .a _
  | plp => rw [effect, effect, h.pull.1]; exact h.pull.2.setP _
  | clc | sec | cli | sei | cld | sed | clv => exact h.setFlag _ _
  | brk => exact h.takeBreak (hpushed (by decide))
  | rti => rw [effect, effect, State.returnFromBreak_setP]; exact .refl _
  | nop | unassigned op => exact h

/-- What an instruction costs does not depend on them either. -/
theorem penalty_eq_of_differsIn (h : s.differsIn fs t) (hfs : ∀ f ∈ fs, f ∈ [Flag.b, .u, .d]) (i : Instr) :
    penalty i t = penalty i s := by
  have hc : .c ∉ fs := fun hf => absurd (hfs _ hf) (by decide)
  have hz : .z ∉ fs := fun hf => absurd (hfs _ hf) (by decide)
  have hv : .v ∉ fs := fun hf => absurd (hfs _ hf) (by decide)
  have hn : .n ∉ fs := fun hf => absurd (hfs _ hf) (by decide)
  have hcross (o : Operand) : t.crossPenalty o = s.crossPenalty o := by
    funext e
    rw [State.crossPenalty, State.crossPenalty, (h.place o).1]
  have hbranch (taken : Bool) (d : Byte) : t.branchPenalty taken d = s.branchPenalty taken d := by
    obtain ⟨q, rfl, -⟩ := h
    rfl
  cases i with
  | lda o | ldx o | ldy o | adc o | sbc o | cmp o | cpx o | cpy o | and o | ora o | eor o | bit o => exact hcross o
  | bcc d | bcs d => simp only [penalty, hbranch, h.flag_eq hc]
  | beq d | bne d => simp only [penalty, hbranch, h.flag_eq hz]
  | bvc d | bvs d => simp only [penalty, hbranch, h.flag_eq hv]
  | bmi d | bpl d => simp only [penalty, hbranch, h.flag_eq hn]
  | _ => rfl

/-- States that differ in these flags only have next states that differ in them only. -/
theorem exec_differsIn {u : State} {i : Instr} (hexec : exec i s = .next u) (h : s.differsIn fs t)
    (hfs : ∀ f ∈ fs, f ∈ [Flag.b, .u, .d]) (hpushed : i ∈ [.php, .brk] → pushedStatus t.p = pushedStatus s.p) :
    ∃ u', exec i t = .next u' ∧ u.differsIn fs u' := by
  obtain ⟨e, hentry, rfl⟩ := exec_eq_next hexec
  refine ⟨_, exec_next hentry t, ?_⟩
  rw [penalty_eq_of_differsIn h hfs]
  exact (effect_differsIn h hfs hpushed).map (g := State.setCyclesPending _) (fun _ => rfl) rfl

/-- Bits 4 and 5 are set in the byte pushed, whatever they hold (R221, R236). -/
theorem pushedStatus_eq_of_differsIn (h : s.differsIn [.b, .u] t) : pushedStatus t.p = pushedStatus s.p := by
  apply status_ext
  intro f
  rw [getLsbD_pushedStatus, getLsbD_pushedStatus]
  by_cases hb : f = .b
  · simp [hb]
  · by_cases hu : f = .u
    · simp [hu]
    · rw [show t.p.getLsbD f.bit = s.p.getLsbD f.bit from h.flag_eq (by simp [hb, hu])]

/-- A difference in one flag is a write of that flag. -/
theorem State.differsIn.eq_setFlag {f : Flag} (h : s.differsIn [f] t) : t = s.setFlag f (t.flag f) := by
  obtain ⟨q, rfl, hflags⟩ := h
  refine congrArg (fun p => s.setP p) (status_ext fun g => ?_)
  rw [getLsbD_putFlag]
  split
  · next hfg => rw [← hfg]; rfl
  · next hfg => exact hflags g (by simpa using Ne.symm hfg)

theorem State.differsIn_setFlag (f : Flag) (v : Bool) (s : State) : s.differsIn [f] (s.setFlag f v) :=
  ⟨_, rfl, fun _ hg => s.flag_setFlag_ne v fun e => hg (List.mem_singleton.mpr e.symm)⟩

/-- What the four instructions that write `D` put there does not come from `P` (R223, R228, R229, R237). -/
theorem flag_d_effect_setP {i : Instr} (hd : .d ∈ flagsWritten i) (q : Byte) (s : State) :
    (effect i (s.setP q)).flag .d = (effect i s).flag .d := by
  cases i with
  | cld | sed => rw [effect, effect, State.flag_setFlag_same, State.flag_setFlag_same]
  | plp => rw [effect, effect, State.pull_setP]; rfl
  | rti => rw [effect, effect, State.returnFromBreak_setP]
  | _ => simp [flagsWritten] at hd

end

/-! ## The gate (R290) -/

section
variable (s : State) (n k : Nat) (r : Bool)

@[simp] theorem State.p_setGate : (s.setGate n r k).p = s.p := rfl
@[simp] theorem State.pc_setGate : (s.setGate n r k).pc = s.pc := rfl
@[simp] theorem State.flag_setGate (f : Flag) : (s.setGate n r k).flag f = s.flag f := rfl

theorem State.setZN_setGate (v : Byte) : (s.setGate n r k).setZN v = (s.setZN v).setGate n r k := rfl

theorem State.modify_setGate (o : Operand) (f : Byte → Bool → Byte) :
    (s.setGate n r k).modify o f = (s.modify o f).setGate n r k := by
  simp only [State.modify, State.operand_setGate, State.place_setGate, State.writeBack_setGate, State.flag_setGate,
    State.setZN_setGate]

theorem State.shift_setGate (o : Operand) (f : Byte → Bool → Byte) (out : Byte → Bool) :
    (s.setGate n r k).shift o f out = (s.shift o f out).setGate n r k := by
  simp only [State.shift, State.modify_setGate, State.operand_setGate, State.setFlag_setGate]

theorem State.branch_setGate (taken : Bool) (d : Byte) :
    (if taken then (s.setGate n r k).setPc (branchTarget d (s.setGate n r k)) else s.setGate n r k) =
      (if taken then s.setPc (branchTarget d s) else s).setGate n r k := by
  cases taken <;> rfl

theorem State.takeBreak_setGate : (s.setGate n r k).takeBreak = s.takeBreak.setGate n r k := by
  simp only [State.takeBreak, State.pc_setGate, State.p_setGate, State.pushWord_setGate, State.push_setGate,
    State.setFlag_setGate, State.readPair_setGate, State.setPc_setGate]

theorem State.returnFromBreak_setGate : (s.setGate n r k).returnFromBreak = s.returnFromBreak.setGate n r k := by
  simp only [State.returnFromBreak, State.pull_setGate, State.setP_setGate, State.pullWord_setGate,
    State.setPc_setGate]

/-- No instruction looks at the gate. -/
theorem effect_setGate (i : Instr) : effect i (s.setGate n r k) = (effect i s).setGate n r k := by
  cases i with
  | lda o | ldx o | ldy o | adc o | sbc o | cmp o | cpx o | cpy o | and o | ora o | eor o | bit o =>
    simp only [effect, State.operand_setGate]; rfl
  | sta o | stx o | sty o => simp only [effect, State.place_setGate, State.writeBack_setGate]; rfl
  | inc o | dec o => simp only [effect, State.modify_setGate]
  | asl o | lsr o | rol o | ror o => simp only [effect, State.shift_setGate]
  | bcc d | bcs d | beq d | bmi d | bne d | bpl d | bvc d | bvs d =>
    simp only [effect, State.flag_setGate]
    exact s.branch_setGate n k r _ d
  | jmp o => simp only [effect, State.place_setGate, State.jumpTo_setGate]
  | jsr o => simp only [effect, State.place_setGate, State.pc_setGate, State.pushWord_setGate, State.jumpTo_setGate]
  | rts => simp only [effect, State.pullWord_setGate, State.setPc_setGate]
  | brk => exact s.takeBreak_setGate n k r
  | rti => exact s.returnFromBreak_setGate n k r
  | _ => rfl

/-- Nor does its cost depend on the gate. -/
theorem penalty_setGate (i : Instr) : penalty i (s.setGate n r k) = penalty i s := by
  have hcross (o : Operand) : (s.setGate n r k).crossPenalty o = s.crossPenalty o := by
    funext e
    rw [State.crossPenalty, State.crossPenalty, State.place_setGate]
  cases i with
  | lda o | ldx o | ldy o | adc o | sbc o | cmp o | cpx o | cpy o | and o | ora o | eor o | bit o => exact hcross o
  | _ => rfl

end

end Sys2Proof.Machine
end

section
/-! The obligations on what no instruction's result depends on. -/

namespace Sys2Proof.Machine

/-- Settles O48: `differsIn` is kept by every instruction, the two that push the status among them, because the byte
they push has bits 4 and 5 set anyway. -/
theorem breakAndUnusedAreNotObservable : Obligations.BreakAndUnusedAreNotObservable := by
  unfold Obligations.BreakAndUnusedAreNotObservable
  intro i q s t hflags hexec
  have h : s.differsIn [.b, .u] (s.setP q) := ⟨q, rfl, hflags⟩
  obtain ⟨_, hexec', q', rfl, hflags'⟩ :=
    exec_differsIn hexec h (by decide) fun _ => pushedStatus_eq_of_differsIn h
  exact ⟨q', hexec', hflags'⟩

/-- Settles O25: the next state differs in `D` only (`exec_differsIn`), and its `D` is what the instruction writes or,
by the frame of the instruction (O47), the one written before it. -/
theorem decimalFlagChangesNoResult : Obligations.DecimalFlagChangesNoResult := by
  unfold Obligations.DecimalFlagChangesNoResult
  intro i b s t hi hexec
  obtain ⟨u, hexec', hdiffers⟩ :=
    exec_differsIn hexec (s.differsIn_setFlag .d b) (by decide) fun h => absurd h hi
  refine ⟨u.flag .d, by rw [hexec', ← hdiffers.eq_setFlag], fun hd => ?written, fun hd => ?kept⟩
  case written =>
    obtain ⟨e, -, rfl⟩ := exec_eq_next hexec
    obtain ⟨e', -, rfl⟩ := exec_eq_next hexec'
    exact flag_d_effect_setP hd _ s
  case kept =>
    obtain ⟨⟨-, hflags, -⟩, -⟩ := onlyListedStateChanges i _ u hexec'
    rw [hflags .d hd, State.flag_setFlag_same]

/-- Settles O49: effect and cost commute with writing the gate, whose count the instruction then sets itself. -/
theorem timingIsNotArchitectural : Obligations.TimingIsNotArchitectural := by
  unfold Obligations.TimingIsNotArchitectural
  intro i n k r s t hexec
  obtain ⟨e, hentry, rfl⟩ := exec_eq_next hexec
  have h := exec_next hentry (s.setGate n r k)
  rw [effect_setGate, penalty_setGate] at h
  exact h

end Sys2Proof.Machine
end

section
/-! The fetch as bus reads, an instruction step as a whole, and the gate from one step to the next (R110, R111, R262,
R281 to R285). -/

namespace Sys2Proof.Machine

/-! ## The fetch (R26, R92, R111) -/

section
variable (s : State)

theorem addr_add_one_add_one (w : Addr) : w + 1#16 + 1#16 = w + 2#16 := BitVec.add_assoc w 1#16 1#16

theorem addr_add_two_add_one (w : Addr) : w + 2#16 + 1#16 = w + 3#16 := BitVec.add_assoc w 2#16 1#16

/-- After the opcode comes one byte for each operand byte of its mode. -/
theorem State.fetch_eq {n : Nat} (h : (entryAt s.fetchOpcode.1).mode.operandBytes = n) :
    s.fetch = (s.fetchOpcode.1 :: (s.fetchOpcode.2.fetchBytes n).1, (s.fetchOpcode.2.fetchBytes n).2) := by
  rw [State.fetch, h]

theorem State.keepsBut_setAddrLatch (a : Addr) : s.keepsBut [] [] [] (s.setAddrLatch a) :=
  State.readsTo.keepsBut ⟨a, s.dataLatch, [], rfl⟩

theorem State.keepsBut_fetchByte : s.keepsBut [] [] [] s.fetchByte.2 :=
  (s.busRead_readsTo s.pc).keepsBut.trans (State.keepsBut_setPc _ _)

theorem State.keepsBut_fetchBytes (n : Nat) (s : State) : s.keepsBut [] [] [] (s.fetchBytes n).2 := by
  induction n generalizing s with
  | zero => exact .refl s
  | succ n ih => exact s.keepsBut_fetchByte.trans (ih _)

theorem State.keepsBut_fetch : s.keepsBut [] [] [] s.fetch.2 :=
  (s.keepsBut_fetchByte.trans (State.keepsBut_setAddrLatch _ _)).trans (State.keepsBut_fetchBytes _ _)

end

/-! ## The poll of the test loop (R262) -/

theorem State.pollTest_of_none {s : State} (h : s.platform.testStatus = none) : s.pollTest = s := by
  rw [State.pollTest, h]

theorem State.pollTest_of_some {s : State} {a : Addr} {done : List Byte}
    (h : s.platform.testStatus = some ⟨a, done⟩) :
    s.pollTest = (s.busRead a).2.setRunEnded (s.runEnded || decide ((s.busRead a).1 ∈ done)) := by
  rw [State.pollTest, h]
  by_cases hdone : (s.busRead a).1 ∈ done
  · simp [hdone]
  · have hkept : (s.busRead a).2 = (s.busRead a).2.setRunEnded s.runEnded := rfl
    simpa [hdone] using hkept

/-! ## An instruction step and the gate (R110, R284, R285) -/

theorem exec_cyclesPending {i : Instr} {s t : State} (h : exec i s = .next t) :
    2 ≤ t.cyclesPending ∧ t.cyclesPending ≤ 7 := by
  obtain ⟨e, hentry, rfl⟩ := exec_eq_next h
  exact cost_bounds hentry s

theorem exec_wf {i : Instr} {s t : State} (h : exec i s = .next t) (hm : Memory.wf s.ram = true) :
    Memory.wf t.ram = true := by
  obtain ⟨e, -, rfl⟩ := exec_eq_next h
  exact effect_wf i s hm

/-- An instruction step closes the gate on the instruction's own cycles, in the phase the gate was in. -/
theorem instructionStep_gate {s t : State} (h : instructionStep s = .next t) :
    t.ready = false ∧ (2 ≤ t.cyclesPending ∧ t.cyclesPending ≤ 7) ∧ t.tickCount = s.tickCount ∧
      t.inputs = s.inputs ∧ (Memory.wf s.ram = true → Memory.wf t.ram = true) := by
  obtain ⟨i, rest, f, -, hexec, rfl⟩ := instructionStep_eq_next h
  obtain ⟨hrun, -, hfetch⟩ := s.closeGate.fetch_keeps
  obtain ⟨-, hready, htick, -, -, hinputs⟩ := hrun.trans (exec_keepsRun hexec)
  obtain ⟨-, pready, ptick, -, pinputs, pcycles, pram⟩ := f.pollTest_keeps
  refine ⟨pready.trans hready, ?cycles, ptick.trans htick, pinputs.trans hinputs, fun hm => ?wf⟩
  case cycles => rw [pcycles]; exact exec_cyclesPending hexec
  case wf => rw [pram]; exact exec_wf hexec (by rw [hfetch]; exact hm)

/-! ## The invariant -/

theorem State.inv_iff (s : State) :
    s.inv = true ↔ Memory.wf s.ram = true ∧ Platform.wf s.platform = true ∧
      s.tickCount < s.platform.tickDivisor ∧ s.cyclesPending ≤ 7 ∧ (s.ready = true ↔ s.cyclesPending = 0) := by
  have hgate : (s.ready == (s.cyclesPending == 0)) = true ↔ (s.ready = true ↔ s.cyclesPending = 0) := by
    rw [beq_iff_eq, Bool.eq_iff_iff, beq_iff_eq]
  simp only [State.inv, Bool.and_eq_true, decide_eq_true_eq, hgate, and_assoc]

theorem State.inv_setTranscript (tr : List Event) (s : State) : (s.setTranscript tr).inv = s.inv := rfl
theorem State.inv_boot (s : State) : s.boot.inv = s.inv := by simp [State.inv]

theorem State.inv_gateTick {s : State} (h : s.inv = true) : s.gateTick.inv = true := by
  rw [State.inv_iff] at h
  obtain ⟨hwf, hplatform, hphase, hcycles, hgate⟩ := h
  rw [State.inv_iff]
  by_cases hboundary : s.tickCount + 1 = s.platform.tickDivisor
  · rw [State.gateTick_boundary hboundary]
    refine ⟨hwf, hplatform, Nat.zero_lt_of_lt hphase, ?cycles, ?gate⟩
    case cycles => exact (Nat.sub_le _ 1).trans hcycles
    case gate => simp [hgate]; omega
  · rw [State.gateTick_inside hboundary]
    exact ⟨hwf, hplatform, Nat.lt_of_le_of_ne hphase hboundary, hcycles, hgate⟩

/-- What the external tick callbacks of a `Tick` put on top of the transcript. -/
def State.tickCalls (s : State) : List Event := (s.platform.tickCallbacks.filterMap tickCall).reverse

/-- On a legal platform a `Tick` is one `GateTick` and the external calls (R281, R283). -/
theorem State.tick_eq {s : State} (h : Platform.wf s.platform = true) :
    s.tick = s.gateTick.setTranscript (s.tickCalls ++ s.transcript) := by
  have hcount : s.platform.tickCallbacks.count .gate = 1 := by
    simp only [Platform.wf, Bool.and_eq_true, beq_iff_eq] at h
    obtain ⟨-, hgate⟩ := h
    exact hgate
  rw [State.tick, State.foldl_callTick_eq, hcount]
  rfl

theorem State.inv_tick {s : State} (h : s.inv = true) : s.tick.inv = true := by
  obtain ⟨-, hplatform, -⟩ := s.inv_iff.mp h
  rw [State.tick_eq hplatform, State.inv_setTranscript]
  exact State.inv_gateTick h

theorem instructionStep_inv {s t : State} (h : s.inv = true) (hstep : instructionStep s = .next t) :
    t.inv = true := by
  rw [State.inv_iff] at h
  obtain ⟨hwf, hplatform, hphase, -⟩ := h
  obtain ⟨hready, ⟨hlow, hhigh⟩, htick, -, hram⟩ := instructionStep_gate hstep
  rw [State.inv_iff, instructionStep_platform hstep, htick, hready]
  exact ⟨hram hwf, hplatform, hphase, hhigh, by simp; omega⟩

/-! ## A countdown of the closed gate -/

/-- The ticks that are left before the gate opens. -/
def State.ticksLeft (s : State) : Nat := s.cyclesPending * s.platform.tickDivisor - s.tickCount

/-- A pending cycle is longer than the phase, so no tick is left exactly when no cycle is. -/
theorem State.ready_iff_ticksLeft {s : State} (h : s.inv = true) : s.ready = true ↔ s.ticksLeft = 0 := by
  rw [State.inv_iff] at h
  obtain ⟨-, -, hphase, -, hgate⟩ := h
  rw [hgate, State.ticksLeft]
  cases s.cyclesPending with
  | zero => simp
  | succ n => rw [Nat.add_mul]; omega

/-- `GateTick` takes one tick off, within a cycle and at its end (R283). -/
theorem State.ticksLeft_gateTick {s : State} (h : s.inv = true) (hclosed : s.ready = false) :
    s.gateTick.ticksLeft + 1 = s.ticksLeft := by
  rw [State.inv_iff] at h
  obtain ⟨-, -, hphase, -, hgate⟩ := h
  have hpending : s.cyclesPending ≠ 0 := fun h0 => by simp [hgate.mpr h0] at hclosed
  obtain ⟨n, hn⟩ := Nat.exists_eq_add_one_of_ne_zero hpending
  by_cases hboundary : s.tickCount + 1 = s.platform.tickDivisor
  · have hleft : s.gateTick.ticksLeft = n * s.platform.tickDivisor := by
      rw [State.gateTick_boundary hboundary]
      simp [State.ticksLeft, hn]
    rw [hleft, State.ticksLeft, hn, Nat.add_mul]
    omega
  · have hleft : s.gateTick.ticksLeft = (n + 1) * s.platform.tickDivisor - (s.tickCount + 1) := by
      rw [State.gateTick_inside hboundary]
      simp [State.ticksLeft, hn]
    rw [hleft, State.ticksLeft, hn, Nat.add_mul]
    omega

/-- `t` is `s` but for the gate and the transcript. -/
def State.ticksTo (s t : State) : Prop :=
  ∃ n r k tr, t = (((s.setTickCount n).setCyclesPending k).setReady r).setTranscript tr

theorem State.ticksTo.trans {s t u : State} (h : s.ticksTo t) (h' : t.ticksTo u) : s.ticksTo u := by
  obtain ⟨_, _, _, _, rfl⟩ := h
  obtain ⟨n, r, k, tr, rfl⟩ := h'
  refine ⟨n, r, k, tr, ?_⟩
  simp only [State.setTickCount, State.setCyclesPending, State.setReady, State.setTranscript]

theorem State.ticksTo.sameButGate {s t : State} (h : s.ticksTo t) : s.sameButGate (t.setTranscript s.transcript) := by
  obtain ⟨_, _, _, _, rfl⟩ := h
  simp only [State.sameButGate, State.setTickCount, State.setCyclesPending, State.setReady, State.setTranscript]

theorem run_succ_of_step {s t : State} (h : step s = .next t) (n : Nat) : core.run (n + 1) s = core.run n t := by
  have hstep : core.step s = .next t := h
  simp only [Host.Core.run, hstep]

theorem step_of_closed {s : State} (hrun : s.running) (hinputs : s.inputs = []) (hclosed : s.ready = false) :
    step s = .next s.tick := by
  obtain ⟨hended, hpower⟩ := hrun
  simp [step, hended, hpower, hinputs, hclosed]

/-- As many steps as ticks are left, or fewer, are as many ticks (R284, R289). -/
theorem run_ticks {n : Nat} {s : State} (hinv : s.inv = true) (hrun : s.running) (hinputs : s.inputs = [])
    (hn : n ≤ s.ticksLeft) :
    ∃ t, core.run n s = .next t ∧ t.inv = true ∧ t.ticksLeft + n = s.ticksLeft ∧ s.ticksTo t ∧
      t.transcript = (List.replicate n s.tickCalls).flatten ++ s.transcript := by
  induction n generalizing s with
  | zero => exact ⟨s, rfl, hinv, rfl, ⟨s.tickCount, s.ready, s.cyclesPending, s.transcript, rfl⟩, rfl⟩
  | succ n ih =>
    have hclosed : s.ready = false := by
      rw [← Bool.not_eq_true, State.ready_iff_ticksLeft hinv]; omega
    obtain ⟨-, hplatform, -⟩ := s.inv_iff.mp hinv
    have htick : s.tick.ticksLeft + 1 = s.ticksLeft := by
      rw [State.tick_eq hplatform]; exact State.ticksLeft_gateTick hinv hclosed
    have htranscript : s.tick.transcript = s.tickCalls ++ s.transcript := by rw [State.tick_eq hplatform]; rfl
    have honly : s.ticksTo s.tick := s.tick_only
    obtain ⟨hrun', hinputs'⟩ : s.tick.running ∧ s.tick.inputs = [] := by
      obtain ⟨_, _, _, _, h⟩ := s.tick_only
      rw [h]
      exact ⟨hrun, hinputs⟩
    obtain ⟨t, hruns, ht, hleft, hto, hcalls⟩ := ih (State.inv_tick hinv) hrun' hinputs' (by omega)
    refine ⟨t, ?run, ht, by omega, honly.trans hto, ?transcript⟩
    case run => exact (run_succ_of_step (step_of_closed hrun hinputs hclosed) n).trans hruns
    case transcript =>
      have hsame : s.tick.tickCalls = s.tickCalls := by rw [State.tickCalls, State.platform_tick]; rfl
      rw [hcalls, hsame, htranscript, List.replicate_succ', List.flatten_append]
      simp

end Sys2Proof.Machine
end

section
/-! The obligations on the fetch, the step, the gate, and the invariant of every run. -/

namespace Sys2Proof.Machine

/-- Settles O51: after the opcode, `fetchBytes` of as many bytes as its mode has (`fetch_eq`), each a read at the next
address; what a fetch reads always decodes (`decode_fetch`). -/
theorem fetchReadsTheInstructionAtPc : Obligations.FetchReadsTheInstructionAtPc := by
  unfold Obligations.FetchReadsTheInstructionAtPc
  intro s b at1 b1 b2 n
  have htwo := addr_add_one_add_one s.pc
  refine ⟨fun hn => s.fetch_eq hn, fun hn => ?one, fun hn => ?two, Mode.operandBytes_le_two _,
    s.keepsBut_fetch, ?decodes⟩
  case one =>
    rw [s.fetch_eq hn]
    simp only [b1, ← htwo]
    rfl
  case two =>
    rw [s.fetch_eq hn]
    simp only [b2, b1, ← addr_add_two_add_one, ← htwo]
    rfl
  case decodes =>
    obtain ⟨i, hdecode, hentry⟩ := s.decode_fetch
    exact ⟨i, hdecode, wellFormed_of_entryOf hentry⟩

/-- Settles O50: an instruction step decodes what it fetched and runs the one instruction that is
(`instructionStep_completes`); every other turn is the branch of `step` that takes it. -/
theorem stepRunsTheDecodedInstruction : Obligations.StepRunsTheDecodedInstruction := by
  unfold Obligations.StepRunsTheDecodedInstruction
  refine ⟨fun s f bs rest i hcpu hfetch hdecode => ?instruction, fun s hrun => ?otherTurns⟩
  case instruction =>
    obtain ⟨i', t, hdecode', hexec, hstep, hplatform, -⟩ := instructionStep_completes s.turnTaken
    rw [State.closeGate, hfetch] at hdecode' hexec
    obtain ⟨rfl, rfl⟩ : i' = i ∧ [] = rest := by simpa [hdecode] using hdecode'.symm
    rw [step_of_cpuEnabled hcpu, hstep, hexec]
    refine ⟨rfl, fun u hu => by cases hu; rfl, fun hnone => ?_⟩
    rw [State.pollTest_of_none (hplatform ▸ hnone)]
  case otherTurns =>
    refine ⟨step_of_closed hrun, fun rest hinputs hclosed => ?poll, fun rest h => step_of_inputs_cons hrun h,
      fun rest h => step_of_inputs_cons hrun h, fun rest h => step_of_inputs_cons hrun h,
      fun rest a h => step_of_inputs_cons hrun h⟩
    case poll =>
      have hclosed' : ¬ (s.setInputs rest).ready = true := by simp [hclosed]
      rw [step_of_inputs_cons hrun hinputs, State.takeInput, State.cpuTurn, if_neg hclosed']

/-- Settles O54: the two branches of the poll. -/
theorem testLoopPollsItsByte : Obligations.TestLoopPollsItsByte := by
  unfold Obligations.TestLoopPollsItsByte
  exact fun s => ⟨State.pollTest_of_none, fun a done => State.pollTest_of_some⟩

/-- Settles O57: the CPU's turn is an instruction step, and that leaves the gate as `instructionStep_gate` says. -/
theorem instructionLeavesTheGateClosed : Obligations.InstructionLeavesTheGateClosed := by
  unfold Obligations.InstructionLeavesTheGateClosed
  intro s t hcpu hstep
  rw [step_of_cpuEnabled hcpu] at hstep
  obtain ⟨hready, ⟨hlow, hhigh⟩, htick, hinputs, -⟩ := instructionStep_gate hstep
  exact ⟨hready, hlow, hhigh, htick, hinputs⟩

/-- Settles O58: `n` is `ticksLeft`, which every step takes one off (`run_ticks`), and the gate is open exactly when it
is 0 (`ready_iff_ticksLeft`). -/
theorem gateOpensAfterItsCycles : Obligations.GateOpensAfterItsCycles := by
  unfold Obligations.GateOpensAfterItsCycles
  intro s hinv hrun hinputs hclosed n calls
  refine ⟨?positive, ?opens, fun k hk => ?notBefore⟩
  case positive =>
    refine Nat.pos_of_ne_zero fun h0 => ?_
    rw [(State.ready_iff_ticksLeft hinv).mpr h0] at hclosed
    cases hclosed
  case opens =>
    obtain ⟨t, hruns, ht, hleft, hto, hcalls⟩ := run_ticks hinv hrun hinputs (Nat.le_refl s.ticksLeft)
    exact ⟨t, hruns, (State.ready_iff_ticksLeft ht).mpr (by omega), hcalls, hto.sameButGate⟩
  case notBefore =>
    obtain ⟨t, hruns, ht, hleft, -⟩ := run_ticks hinv hrun hinputs (Nat.le_of_lt hk)
    refine ⟨t, hruns, ?_⟩
    rw [← Bool.not_eq_true, State.ready_iff_ticksLeft ht]
    have : k < s.ticksLeft := hk
    omega

/-- Settles O59: whichever turn the step was (`step_cases`); only an instruction and a tick touch what the invariant
speaks of. -/
theorem stepKeepsTheInvariant : Obligations.StepKeepsTheInvariant := by
  unfold Obligations.StepKeepsTheInvariant
  intro s t hinv hstep
  have htaken : s.turnTaken.inv = true := hinv
  obtain ⟨-, ⟨-, hcpu⟩ | ⟨-, -, rfl⟩ | ⟨-, rfl⟩ | ⟨-, rfl⟩ | ⟨-, rfl⟩ | ⟨a, -, rfl⟩⟩ := step_cases hstep
  · exact instructionStep_inv htaken hcpu
  · exact htaken
  · exact State.inv_tick htaken
  · exact htaken
  · rw [State.inv_boot]; exact htaken
  · exact htaken

/-- Settles O60: `Boot` leaves the invariant as it was (`inv_boot`), and construction sets the gate open with nothing
pending. -/
theorem invariantHoldsAfterBoot : Obligations.InvariantHoldsAfterBoot := by
  unfold Obligations.InvariantHoldsAfterBoot
  refine ⟨rfl, fun pl m hplatform hwf => ?_⟩
  have hdivisor : 0 < pl.tickDivisor := by
    simp only [Platform.wf, Bool.and_eq_true, decide_eq_true_eq] at hplatform
    obtain ⟨hdivisor, -⟩ := hplatform
    exact hdivisor
  rw [State.inv_boot, State.inv_iff]
  exact ⟨hwf, hplatform, hdivisor, Nat.zero_le 7, fun _ => rfl, fun _ => rfl⟩

/-- Settles O15: field by field the two are the same term: FlatMem answers both reads of the vector with free bytes. -/
theorem resetIsBootOfTheLaunchedMachine : Obligations.ResetIsBootOfTheLaunchedMachine := by
  unfold Obligations.ResetIsBootOfTheLaunchedMachine
  rfl

end Sys2Proof.Machine
end

section
/-! Operands: what a form costs (R95), and the resolvers' addresses as arithmetic on numbers (R116 to R126). -/

namespace Sys2Proof.Machine

/-! ## Cycle costs by operand form (R95) -/

/-- The base cost of a read-class instruction. -/
def readCycles : Form → Nat
  | .imm => 2
  | .zp => 3
  | .zpx | .zpy | .abs | .abx | .aby => 4
  | .izx => 6
  | .izy => 5
  | .acc | .ind => 0

/-- The forms whose read-class cells are marked `+`. -/
def paysForCrossing : Form → Bool
  | .abx | .aby | .izy => true
  | _ => false

/-- The cost of a store. -/
def storeCycles : Form → Nat
  | .zp => 3
  | .zpx | .zpy | .abs => 4
  | .abx | .aby => 5
  | .izx | .izy => 6
  | .acc | .imm | .ind => 0

/-- The cost of a read-modify-write. -/
def rmwCycles : Form → Nat
  | .acc => 2
  | .zp => 5
  | .zpx | .abs => 6
  | .abx => 7
  | _ => 0

section
variable {i : Instr} {o : Operand} {l : List (Form × Byte)} {s t : State}

/-- An instruction with an operand has the entry of one of the bytes its row of the table lists (R97). -/
theorem exec_eq_next_of_opcodeAt (hop : opcodeOf i = opcodeAt o l) (h : exec i s = .next t) :
    ∃ b, (o.form, b) ∈ l ∧ t.cyclesPending = (entryAt b).cycles + penalty i s (entryAt b) := by
  obtain ⟨e, hentry, rfl⟩ := exec_eq_next h
  rw [entryOf, hop] at hentry
  obtain ⟨b, hb, rfl⟩ := Option.map_eq_some_iff.mp hentry
  exact ⟨b, mem_of_opcodeAt hb, rfl⟩

theorem cyclesPending_read (hop : opcodeOf i = opcodeAt o l) (hpenalty : penalty i s = s.crossPenalty o)
    (hl : ∀ p ∈ l, (entryAt p.2).cycles = readCycles p.1 ∧ (entryAt p.2).plus = paysForCrossing p.1)
    (h : exec i s = .next t) :
    t.cyclesPending = readCycles o.form + if (paysForCrossing o.form && (s.place o).1.cross) = true then 1 else 0 := by
  obtain ⟨b, hb, ht⟩ := exec_eq_next_of_opcodeAt hop h
  obtain ⟨hcycles, hplus⟩ := hl _ hb
  rw [ht, hpenalty, State.crossPenalty, hcycles, hplus]

theorem cyclesPending_noPenalty (hop : opcodeOf i = opcodeAt o l) (hpenalty : penalty i s = noPenalty)
    {cost : Form → Nat} (hl : ∀ p ∈ l, (entryAt p.2).cycles = cost p.1) (h : exec i s = .next t) :
    t.cyclesPending = cost o.form := by
  obtain ⟨b, hb, ht⟩ := exec_eq_next_of_opcodeAt hop h
  rw [ht, hpenalty, hl _ hb]
  rfl

end

/-! ## Addresses as numbers (R116 to R126) -/

theorem zext16_eq_ofNat (b : Byte) : zext16 b = BitVec.ofNat 16 b.toNat := by
  rw [← toNat_zext16, BitVec.ofNat_toNat, BitVec.setWidth_eq]

/-- A zero-page sum stays in the zero page. -/
theorem zext16_add_eq_ofNat (z i : Byte) : zext16 (z + i) = BitVec.ofNat 16 ((z.toNat + i.toNat) % 256) := by
  rw [zext16_eq_ofNat, BitVec.toNat_add]

theorem zext16_add_one_eq_ofNat (z : Byte) : zext16 (z + 1#8) = BitVec.ofNat 16 ((z.toNat + 1) % 256) :=
  zext16_add_eq_ofNat z 1#8

theorem addr_eq_ofNat (w : Addr) : w = BitVec.ofNat 16 w.toNat := by
  rw [BitVec.ofNat_toNat, BitVec.setWidth_eq]

/-- Indexing adds modulo 65536, and leaves the page exactly when the low byte carries (R122, R123, R130). -/
theorem indexed_eq (w : Addr) (i : Byte) :
    indexed w i = .mem (BitVec.ofNat 16 (w.toNat + i.toNat)) (decide (256 ≤ w.toNat % 256 + i.toNat)) := by
  have hsum : w + zext16 i = BitVec.ofNat 16 (w.toNat + i.toNat) := by
    rw [BitVec.ofNat_add, ← addr_eq_ofNat, ← zext16_eq_ofNat]
  have hpage : page (BitVec.ofNat 16 (w.toNat + i.toNat)) = page w ↔ w.toNat % 256 + i.toNat < 256 := by
    rw [page_eq_iff, BitVec.toNat_ofNat]
    have := w.isLt
    have := i.isLt
    omega
  rw [indexed, hsum, Place.mem.injEq]
  refine ⟨rfl, ?_⟩
  rw [Bool.eq_iff_iff, bne_iff_ne, decide_eq_true_eq, Ne, hpage, Nat.not_lt]

/-- A pointer's two bytes are a little-endian number (R50, R72). -/
theorem State.readPair_eq (alo ahi : Addr) (s : State) :
    s.readPair alo ahi = (BitVec.ofNat 16 (256 * ((s.busRead alo).2.busRead ahi).1.toNat + (s.busRead alo).1.toNat),
      ((s.busRead alo).2.busRead ahi).2) := by
  rw [State.readPair, join_eq_ofNat]

/-- The operand of a place in memory is one read there (R115). -/
theorem State.operand_of_place {o : Operand} {s t : State} {ea : Addr} {cross : Bool}
    (h : s.place o = (.mem ea cross, t)) : s.operand o = t.busRead ea := by
  rw [State.operand, h]
  rfl

theorem State.place_abx (w : Addr) (s : State) : s.place (.abx w) =
    (.mem (BitVec.ofNat 16 (w.toNat + s.x.toNat)) (decide (256 ≤ w.toNat % 256 + s.x.toNat)), s) := by
  rw [State.place, indexed_eq]

theorem State.place_aby (w : Addr) (s : State) : s.place (.aby w) =
    (.mem (BitVec.ofNat 16 (w.toNat + s.y.toNat)) (decide (256 ≤ w.toNat % 256 + s.y.toNat)), s) := by
  rw [State.place, indexed_eq]

end Sys2Proof.Machine
end

section
/-! The obligations on the operand forms. -/

namespace Sys2Proof.Machine

/-- Settles O5: the bytes each row of the table by mnemonic lists have, in the matrix, the costs of their class and
form, and only the read class has cells marked `+`. -/
theorem cycleCostsOfOperandForms : Obligations.CycleCostsOfOperandForms := by
  unfold Obligations.CycleCostsOfOperandForms
  intro o s t cross
  refine ⟨fun i hi hexec => ?read, fun i hi hexec => ?store, fun i hi hexec => ?rmw⟩
  all_goals simp only [List.mem_cons, List.not_mem_nil, or_false] at hi
  case read =>
    have hcost : t.cyclesPending =
        readCycles o.form + if (paysForCrossing o.form && (s.place o).1.cross) = true then 1 else 0 := by
      rcases hi with rfl | rfl | rfl | rfl | rfl | rfl | rfl | rfl | rfl | rfl | rfl | rfl <;>
        exact cyclesPending_read rfl rfl (by decide) hexec
    rw [hcost]
    cases o <;> rfl
  case store =>
    have hcost : t.cyclesPending = storeCycles o.form := by
      rcases hi with rfl | rfl | rfl <;> exact cyclesPending_noPenalty rfl rfl (by decide) hexec
    rw [hcost]
    cases o <;> rfl
  case rmw =>
    have hcost : t.cyclesPending = rmwCycles o.form := by
      rcases hi with rfl | rfl | rfl | rfl | rfl | rfl <;> exact cyclesPending_noPenalty rfl rfl (by decide) hexec
    rw [hcost]
    cases o <;> rfl

/-- Settles O16: the zero-page sums are `zext16` of a byte sum, the indexed addresses `indexed_eq`. -/
theorem directModesComputeTheirAddress : Obligations.DirectModesComputeTheirAddress := by
  unfold Obligations.DirectModesComputeTheirAddress
  intro s
  refine ⟨rfl, fun n => rfl, fun z => ?zp, fun z => ?zpx, fun z => ?zpy, fun w => rfl,
    fun w => ⟨State.operand_of_place (s.place_abx w), s.place_abx w⟩,
    fun w => ⟨State.operand_of_place (s.place_aby w), s.place_aby w⟩⟩
  case zp => rw [← zext16_eq_ofNat]; rfl
  case zpx | zpy => rw [← zext16_add_eq_ofNat]; rfl

/-- Settles O17: each resolver is one `readPair` at its pointer's two addresses (`readPair_eq`), and Indirect-Indexed
then indexes the word read. -/
theorem pointerModesReadTheirPointer : Obligations.PointerModesReadTheirPointer := by
  unfold Obligations.PointerModesReadTheirPointer
  intro s pair
  refine ⟨fun w => ?indirect, fun z => ?indexedIndirect, fun z => ?indirectIndexed⟩
  case indirect =>
    intro r
    rw [State.place, State.readPair_eq, samePageNext_eq_ofNat]
    simp only [r, pair, ← addr_eq_ofNat]
  case indexedIndirect =>
    intro r
    have hplace : s.place (.izx z) = (.mem (BitVec.ofNat 16 r.1) false, r.2) := by
      rw [State.place, State.readPair_eq, zext16_add_one_eq_ofNat, zext16_add_eq_ofNat, BitVec.toNat_add,
        Nat.mod_add_mod]
    exact ⟨hplace, State.operand_of_place hplace⟩
  case indirectIndexed =>
    intro r
    have hplace : s.place (.izy z) = (.mem (BitVec.ofNat 16 (r.1 + s.y.toNat))
        (decide (256 ≤ r.1 % 256 + s.y.toNat)), r.2) := by
      rw [State.place, zext16_eq_ofNat, zext16_add_one_eq_ofNat, indexed_eq, State.readPair, toNat_join]
    exact ⟨hplace, State.operand_of_place hplace⟩

/-- Settles O18: resolver and operand read are bus reads and nothing else (`readsTo`). -/
theorem resolversOnlyRead : Obligations.ResolversOnlyRead := by
  unfold Obligations.ResolversOnlyRead
  intro o s
  obtain ⟨evs, hevs⟩ := (s.operand_readsTo o).transcript_suffix
  exact ⟨⟨(s.place_readsTo o).keepsBut, s.pc_place o⟩, ⟨(s.operand_readsTo o).keepsBut, s.pc_operand o⟩,
    evs, hevs.symm⟩

end Sys2Proof.Machine
end

section
/-! `V` as two's-complement overflow (R160, R161, R171), and the round trips through the stack (R209 to R212, R221,
R223, R236, R237). -/

namespace Sys2Proof.Machine

/-! ## Signed overflow -/

theorem and_sign_ne_zero : ∀ b : Byte, (b &&& 0x80#8 != 0#8) = b.getLsbD 7 := by decide

/-- The sum overflows when both operands have the sign that the result has not. -/
theorem addOverflow_iff_signs (a m : Byte) (c : Bool) :
    addOverflow a m c = true ↔
      (128 ≤ a.toNat ↔ addSum a m c % 256 < 128) ∧ (128 ≤ m.toNat ↔ addSum a m c % 256 < 128) := by
  rw [addOverflow, and_sign_ne_zero, BitVec.getLsbD_and, BitVec.getLsbD_xor, BitVec.getLsbD_xor, Bool.and_eq_true,
    ← toNat_addResult, ← getLsbD_seven_iff, ← getLsbD_seven_iff, ← Nat.not_le, ← getLsbD_seven_iff]
  cases a.getLsbD 7 <;> cases m.getLsbD 7 <;> cases (addResult a m c).getLsbD 7 <;> decide

theorem toInt_byte (b : Byte) : b.toInt = if b.toNat < 128 then (b.toNat : Int) else b.toNat - 256 := by
  rw [BitVec.toInt_eq_toNat_cond]
  split <;> split <;> omega

/-- `V` after an addition (R160, R171). -/
theorem addOverflow_iff_toInt (a m : Byte) (c : Bool) :
    addOverflow a m c = true ↔ a.toInt + m.toInt + (if c = true then 1 else 0) < -128 ∨
      127 < a.toInt + m.toInt + (if c = true then 1 else 0) := by
  have ha := a.isLt
  have hm := m.isLt
  have hsum : addSum a m c = a.toNat + m.toNat + carryNat c := rfl
  have hcarry : (if c = true then 1 else 0 : Int) = carryNat c := by cases c <;> rfl
  have hle := carryNat_le_one c
  rw [addOverflow_iff_signs, hcarry, toInt_byte, toInt_byte, hsum]
  split <;> split <;> omega

/-- The complement's signed reading (R161). -/
theorem toInt_complement (m : Byte) : (m ^^^ 0xFF#8).toInt = -m.toInt - 1 := by
  have hm := m.isLt
  have hnot : (m ^^^ 0xFF#8).toNat = 255 - m.toNat := by
    rw [show m ^^^ 0xFF#8 = ~~~m from BitVec.xor_allOnes, BitVec.toNat_not]
  rw [toInt_byte, toInt_byte, hnot]
  split <;> split <;> omega

/-! ## What is pushed last is pulled first -/

section
variable {s t : State}

theorem pull_of_push {v : Byte} (hram : t.ram = (s.push v).ram) (hsp : t.sp = s.sp - 1#8) : t.pull.1 = v := by
  rw [State.pull_value, hram, hsp, BitVec.sub_add_cancel, State.get_push, if_pos rfl]

theorem pullWord_of_pushWord {w : Addr} (hram : t.ram = (s.pushWord w).ram) (hsp : t.sp = s.sp - 2#8) :
    t.pullWord.1 = w := by
  have hlow : t.sp + 1#8 = s.sp - 1#8 := by rw [hsp]; bv_omega
  have hhigh : t.sp + 2#8 = s.sp := by rw [hsp, BitVec.sub_add_cancel]
  rw [State.pullWord_value, hram, hlow, hhigh, State.get_pushWord_low, State.get_pushWord_high, join_hiByte_loByte]

/-- RTI takes back what the trap pushed (R236, R237). -/
theorem returnFromBreak_of_takeBreak (hram : t.ram = s.takeBreak.ram) (hsp : t.sp = s.sp - 3#8) :
    t.returnFromBreak.pc = s.pc + 1#16 ∧ t.returnFromBreak.p = pushedStatus s.p := by
  have hstatus : t.sp + 1#8 = s.sp - 2#8 := by rw [hsp]; bv_omega
  have hlow : t.sp + 2#8 = s.sp - 1#8 := by rw [hsp]; bv_omega
  have hhigh : t.sp + 3#8 = s.sp := by rw [hsp, BitVec.sub_add_cancel]
  constructor
  · rw [State.pc_returnFromBreak, hram, hlow, hhigh, State.get_takeBreak_low, State.get_takeBreak_high,
      join_hiByte_loByte]
  · rw [State.p_returnFromBreak, State.pull_value, hram, hstatus, State.get_takeBreak_status]

end

end Sys2Proof.Machine
end

section
/-! The obligations on signed overflow and on the round trips. -/

namespace Sys2Proof.Machine

/-- Settles O24: `V` is `addOverflow` of `A` and the operand or its complement, whose signed reading is the operand's
negative less 1. -/
theorem overflowMeansSignedOverflow : Obligations.OverflowMeansSignedOverflow := by
  unfold Obligations.OverflowMeansSignedOverflow
  intro o s t a m c
  have flag_v {i : Instr} {v : Byte} (heffect : effect i s = (s.operand o).2.addWithCarry v)
      (hexec : exec i s = .next t) : t.flag .v = addOverflow s.a v (s.flag .c) := by
    obtain ⟨e, -, rfl⟩ := exec_eq_next hexec
    rw [State.flag_setCyclesPending, heffect, State.flag_v_addWithCarry, State.a_operand, State.flag_operand]
  refine ⟨fun hexec => ?adc, fun hexec => ?sbc⟩
  case adc => rw [flag_v rfl hexec, addOverflow_iff_toInt]
  case sbc =>
    have hdifference : a + (-m - 1) + c = a - m - (1 - c) := by omega
    rw [flag_v rfl hexec, addOverflow_iff_toInt, toInt_complement, ← hdifference]

/-- Settles O37: the word RTS pulls is the one JSR pushed, wherever `S` stands (`pullWord_of_pushWord`). -/
theorem rtsUndoesJsr : Obligations.RtsUndoesJsr := by
  unfold Obligations.RtsUndoesJsr
  intro w s
  have hjsr : exec (.jsr (.abs w)) s = .next (((s.pushWord (s.pc - 1#16)).setPc w).setCyclesPending 6) :=
    exec_next (e := entryAt 0x20) rfl s
  have hrts (t : State) : exec .rts t = .next ((t.pullWord.2.setPc (t.pullWord.1 + 1#16)).setCyclesPending 6) :=
    exec_next (e := entryAt 0x60) rfl t
  have hpulled : (((s.pushWord (s.pc - 1#16)).setPc w).setCyclesPending 6).pullWord.1 = s.pc - 1#16 :=
    pullWord_of_pushWord rfl (s.sp_pushWord (s.pc - 1#16))
  refine ⟨_, _, hjsr, hrts _, ?pc, ?sp, ?a, ?x, ?y, ?p⟩
  case pc => rw [State.pc_setCyclesPending, State.pc_setPc, hpulled, BitVec.sub_add_cancel]
  all_goals simp

/-- Settles O40: the byte PLP pulls is the one PHP pushed (`pull_of_push`); bits 4 and 5 are set in it and cleared
again, the other six are `P`'s. -/
theorem plpUndoesPhp : Obligations.PlpUndoesPhp := by
  unfold Obligations.PlpUndoesPhp
  intro s
  have hphp : exec .php s = .next ((s.push (pushedStatus s.p)).setCyclesPending 3) :=
    exec_next (e := entryAt 0x08) rfl s
  have hplp (t : State) : exec .plp t = .next ((t.pull.2.setP (maskedStatus t.pull.1)).setCyclesPending 4) :=
    exec_next (e := entryAt 0x28) rfl t
  have hpulled : ((s.push (pushedStatus s.p)).setCyclesPending 3).pull.1 = pushedStatus s.p :=
    pull_of_push (s := s) rfl rfl
  have hflag (f : Flag) : (maskedStatus (pushedStatus s.p)).getLsbD f.bit =
      (s.flag f && !decide (f = .b) && !decide (f = .u)) := by
    rw [getLsbD_maskedStatus, getLsbD_pushedStatus, ← State.flag]
    cases f <;> simp
  refine ⟨_, _, hphp, hplp _, ?sp, fun f hf => ?kept, ?breakClear, ?unusedClear⟩
  case sp => simp
  all_goals rw [State.flag_setCyclesPending, State.flag_setP, hpulled, hflag]
  case kept =>
    obtain ⟨hb, hu⟩ : f ≠ .b ∧ f ≠ .u := by simpa using hf
    simp [hb, hu]
  case breakClear | unusedClear => simp

/-- Settles O45: RTI pulls the three bytes the trap pushed (`returnFromBreak_of_takeBreak`). -/
theorem rtiUndoesBrk : Obligations.RtiUndoesBrk := by
  unfold Obligations.RtiUndoesBrk
  intro s
  have hbrk : exec .brk s = .next (s.takeBreak.setCyclesPending 7) := exec_next (e := entryAt 0x00) rfl s
  have hrti (t : State) : exec .rti t = .next (t.returnFromBreak.setCyclesPending 6) :=
    exec_next (e := entryAt 0x40) rfl t
  obtain ⟨hpc, hp⟩ := returnFromBreak_of_takeBreak (s := s) (t := s.takeBreak.setCyclesPending 7) rfl s.sp_takeBreak
  refine ⟨_, _, hbrk, hrti _, hpc, ?sp, hp, ?a, ?x, ?y⟩
  all_goals simp

end Sys2Proof.Machine
end
